-- ==== Sys2Proof/Word.lean ====
section
/-! DEFINITION. The word types of the machine: data bytes, 16-bit words, 12-bit address fields and register numbers.
spec/00_scope.md R8, R9: bit 0 is the least significant bit, and every value is unsigned. -/

namespace Sys2Proof

/-- A data register or a memory cell: 8 bits, unsigned (00_scope.md R2, R7). -/
abbrev Byte := BitVec 8

/-- An instruction word, and the width of PC, I and a stack entry: 16 bits (00_scope.md R7). -/
abbrev Word := BitVec 16

/-- The `nnn` field: a 12-bit address (30_encoding.md R81). -/
abbrev Addr12 := BitVec 12

/-- A register number, 0 to 15, which a 4-bit field `x` or `y` selects (10_state.md R20, 30_encoding.md R84). -/
abbrev Reg := Fin 16

/-- A key number, 0 to 15 (10_state.md R31). -/
abbrev Key := Fin 16

/-- A sprite's row count `n`, 0 to 15 (30_encoding.md R83). -/
abbrev RowCount := Fin 16

/-- V0, the implicit register of Bnnn and the first of Fx55 and Fx65 (30_encoding.md R84). -/
abbrev Reg.v0 : Reg := 0

/-- VF, general register 15 and the flag register (10_state.md R21). -/
abbrev Reg.vf : Reg := 15

end Sys2Proof
end

