-- ==== Sys2Proof/Syntax.lean ====
section
/-! DEFINITION. The instruction set as syntax: one constructor per row of spec/opcode_table.json, in the table's order
(spec/30_encoding.md R86). The operand types are the fields of R81, so every value of an operand is one the encoding
admits (R84). -/

namespace Sys2Proof

/-- The 34 instructions (30_encoding.md R86). SHR and SHL keep no `y`: every value of `y` decodes to the same
instruction with the same effect (R88; log 24). -/
inductive Instr where
  /-- 00E0 CLS (44_display.md R201). -/
  | cls
  /-- 00EE RET (41_control_flow.md R130). -/
  | ret
  /-- 1nnn JP nnn (41_control_flow.md R131). -/
  | jp (nnn : Addr12)
  /-- 2nnn CALL nnn (41_control_flow.md R132). -/
  | call (nnn : Addr12)
  /-- 3xnn SE Vx, nn (41_control_flow.md R133). -/
  | seVxNn (x : Reg) (nn : Byte)
  /-- 4xnn SNE Vx, nn (41_control_flow.md R134). -/
  | sneVxNn (x : Reg) (nn : Byte)
  /-- 5xy0 SE Vx, Vy (41_control_flow.md R135). -/
  | seVxVy (x y : Reg)
  /-- 6xnn LD Vx, nn (42_alu.md R152). -/
  | ldVxNn (x : Reg) (nn : Byte)
  /-- 7xnn ADD Vx, nn (42_alu.md R153). -/
  | addVxNn (x : Reg) (nn : Byte)
  /-- 8xy0 LD Vx, Vy (42_alu.md R154). -/
  | ldVxVy (x y : Reg)
  /-- 8xy1 OR Vx, Vy (42_alu.md R155). -/
  | orVxVy (x y : Reg)
  /-- 8xy2 AND Vx, Vy (42_alu.md R156). -/
  | andVxVy (x y : Reg)
  /-- 8xy3 XOR Vx, Vy (42_alu.md R157). -/
  | xorVxVy (x y : Reg)
  /-- 8xy4 ADD Vx, Vy (42_alu.md R158). -/
  | addVxVy (x y : Reg)
  /-- 8xy5 SUB Vx, Vy (42_alu.md R159). -/
  | sub (x y : Reg)
  /-- 8xy6 SHR Vx, the `y` field ignored (42_alu.md R160). -/
  | shr (x : Reg)
  /-- 8xy7 SUBN Vx, Vy (42_alu.md R161). -/
  | subn (x y : Reg)
  /-- 8xyE SHL Vx, the `y` field ignored (42_alu.md R162). -/
  | shl (x : Reg)
  /-- 9xy0 SNE Vx, Vy (41_control_flow.md R136). -/
  | sneVxVy (x y : Reg)
  /-- Annn LD I, nnn (43_index_memory.md R180). -/
  | ldINnn (nnn : Addr12)
  /-- Bnnn JP V0, nnn (41_control_flow.md R137). -/
  | jpV0 (nnn : Addr12)
  /-- Cxnn RND Vx, nn (42_alu.md R163). -/
  | rnd (x : Reg) (nn : Byte)
  /-- Dxyn DRW Vx, Vy, n (44_display.md R202). -/
  | drw (x y : Reg) (n : RowCount)
  /-- Ex9E SKP Vx (45_keypad_timers.md R220). -/
  | skp (x : Reg)
  /-- ExA1 SKNP Vx (45_keypad_timers.md R221). -/
  | sknp (x : Reg)
  /-- Fx07 LD Vx, DT (45_keypad_timers.md R223). -/
  | ldVxDt (x : Reg)
  /-- Fx0A LD Vx, K (45_keypad_timers.md R224). -/
  | ldVxK (x : Reg)
  /-- Fx15 LD DT, Vx (45_keypad_timers.md R225). -/
  | ldDtVx (x : Reg)
  /-- Fx18 LD ST, Vx (45_keypad_timers.md R226). -/
  | ldStVx (x : Reg)
  /-- Fx1E ADD I, Vx (43_index_memory.md R181). -/
  | addIVx (x : Reg)
  /-- Fx29 LD F, Vx (43_index_memory.md R182). -/
  | ldFVx (x : Reg)
  /-- Fx33 LD B, Vx (43_index_memory.md R183). -/
  | ldBVx (x : Reg)
  /-- Fx55 LD [I], Vx (43_index_memory.md R184). -/
  | ldMemVx (x : Reg)
  /-- Fx65 LD Vx, [I] (43_index_memory.md R185). -/
  | ldVxMem (x : Reg)
  deriving DecidableEq, Repr

end Sys2Proof
end

