-- ==== Sys2Proof/WellFormed.lean ====
section
/-! DEFINITION. What is well formed and what is not.
An `Instr` cannot be ill formed: its operand types are exactly the fields of spec/30_encoding.md R81, and every value of
every field is legal (R84). What a program can get wrong is a WORD (one that no row of the opcode map of R86 matches,
R87) or an IMAGE (one that does not fit the program area, spec/20_memory.md R61). Both checks stand here. The opcode map
is written as the masks and matches of R86, apart from the decoder's nested cases of R85, so that the two can be held
against each other. -/

namespace Sys2Proof

/-- One row of the opcode map: a word `w` is this row's instruction when `w & mask = pat` (30_encoding.md R86). -/
structure OpcodeRow where
  /-- The row's mnemonic in spec/opcode_table.json. -/
  mnemonic : String
  /-- The column Match. -/
  pat : Word
  /-- The column Mask. -/
  mask : Word
  deriving DecidableEq, Repr

/-- A word is the row's instruction (30_encoding.md R86). -/
def OpcodeRow.fits (r : OpcodeRow) (w : Word) : Bool := w &&& r.mask == r.pat

/-- Rows 1 to 9 of 30_encoding.md R86. -/
def opcodeRows0To7 : List OpcodeRow := [
  ⟨"CLS", 0x00E0#16, 0xFFFF#16⟩, ⟨"RET", 0x00EE#16, 0xFFFF#16⟩,
  ⟨"JP", 0x1000#16, 0xF000#16⟩, ⟨"CALL", 0x2000#16, 0xF000#16⟩,
  ⟨"SE_VX_NN", 0x3000#16, 0xF000#16⟩, ⟨"SNE_VX_NN", 0x4000#16, 0xF000#16⟩,
  ⟨"SE_VX_VY", 0x5000#16, 0xF00F#16⟩, ⟨"LD_VX_NN", 0x6000#16, 0xF000#16⟩,
  ⟨"ADD_VX_NN", 0x7000#16, 0xF000#16⟩]

/-- Rows 10 to 18 of 30_encoding.md R86. -/
def opcodeRows8 : List OpcodeRow := [
  ⟨"LD_VX_VY", 0x8000#16, 0xF00F#16⟩, ⟨"OR", 0x8001#16, 0xF00F#16⟩,
  ⟨"AND", 0x8002#16, 0xF00F#16⟩, ⟨"XOR", 0x8003#16, 0xF00F#16⟩,
  ⟨"ADD_VX_VY", 0x8004#16, 0xF00F#16⟩, ⟨"SUB", 0x8005#16, 0xF00F#16⟩,
  ⟨"SHR", 0x8006#16, 0xF00F#16⟩, ⟨"SUBN", 0x8007#16, 0xF00F#16⟩,
  ⟨"SHL", 0x800E#16, 0xF00F#16⟩]

/-- Rows 19 to 25 of 30_encoding.md R86. -/
def opcodeRows9ToE : List OpcodeRow := [
  ⟨"SNE_VX_VY", 0x9000#16, 0xF00F#16⟩, ⟨"LD_I_NNN", 0xA000#16, 0xF000#16⟩,
  ⟨"JP_V0", 0xB000#16, 0xF000#16⟩, ⟨"RND", 0xC000#16, 0xF000#16⟩,
  ⟨"DRW", 0xD000#16, 0xF000#16⟩, ⟨"SKP", 0xE09E#16, 0xF0FF#16⟩,
  ⟨"SKNP", 0xE0A1#16, 0xF0FF#16⟩]

/-- Rows 26 to 34 of 30_encoding.md R86. -/
def opcodeRowsF : List OpcodeRow := [
  ⟨"LD_VX_DT", 0xF007#16, 0xF0FF#16⟩, ⟨"LD_VX_K", 0xF00A#16, 0xF0FF#16⟩,
  ⟨"LD_DT_VX", 0xF015#16, 0xF0FF#16⟩, ⟨"LD_ST_VX", 0xF018#16, 0xF0FF#16⟩,
  ⟨"ADD_I_VX", 0xF01E#16, 0xF0FF#16⟩, ⟨"LD_F_VX", 0xF029#16, 0xF0FF#16⟩,
  ⟨"LD_B_VX", 0xF033#16, 0xF0FF#16⟩, ⟨"LD_MEM_VX", 0xF055#16, 0xF0FF#16⟩,
  ⟨"LD_VX_MEM", 0xF065#16, 0xF0FF#16⟩]

/-- The whole opcode map, 34 rows (30_encoding.md R86). -/
def opcodeMap : List OpcodeRow := opcodeRows0To7 ++ (opcodeRows8 ++ (opcodeRows9ToE ++ opcodeRowsF))

/-- A word is well formed when some row of the opcode map fits it; the others are unmapped (30_encoding.md R87). -/
def wordWellFormed (w : Word) : Bool := opcodeMap.any fun r => r.fits w

/-- A program image is well formed when it ends at or below address 4095, that is when it has at most 3584 bytes
(20_memory.md R60, R61). -/
def imageWellFormed (bytes : List Byte) : Bool := decide (bytes.length ≤ 3584)

/-- The mnemonic of an instruction's row in spec/opcode_table.json. -/
def Instr.mnemonic : Instr → String
  | .cls => "CLS"
  | .ret => "RET"
  | .jp _ => "JP"
  | .call _ => "CALL"
  | .seVxNn _ _ => "SE_VX_NN"
  | .sneVxNn _ _ => "SNE_VX_NN"
  | .seVxVy _ _ => "SE_VX_VY"
  | .ldVxNn _ _ => "LD_VX_NN"
  | .addVxNn _ _ => "ADD_VX_NN"
  | .ldVxVy _ _ => "LD_VX_VY"
  | .orVxVy _ _ => "OR"
  | .andVxVy _ _ => "AND"
  | .xorVxVy _ _ => "XOR"
  | .addVxVy _ _ => "ADD_VX_VY"
  | .sub _ _ => "SUB"
  | .shr _ => "SHR"
  | .subn _ _ => "SUBN"
  | .shl _ => "SHL"
  | .sneVxVy _ _ => "SNE_VX_VY"
  | .ldINnn _ => "LD_I_NNN"
  | .jpV0 _ => "JP_V0"
  | .rnd _ _ => "RND"
  | .drw _ _ _ => "DRW"
  | .skp _ => "SKP"
  | .sknp _ => "SKNP"
  | .ldVxDt _ => "LD_VX_DT"
  | .ldVxK _ => "LD_VX_K"
  | .ldDtVx _ => "LD_DT_VX"
  | .ldStVx _ => "LD_ST_VX"
  | .addIVx _ => "ADD_I_VX"
  | .ldFVx _ => "LD_F_VX"
  | .ldBVx _ => "LD_B_VX"
  | .ldMemVx _ => "LD_MEM_VX"
  | .ldVxMem _ => "LD_VX_MEM"

end Sys2Proof
end

