-- ==== Sys2Proof/Decode.lean ====
section
/-! DEFINITION. The decoder and the encoder (spec/30_encoding.md). The decoder follows the pseudocode of R85 and rejects an
unmapped word by name (R87); the encoder lays an instruction's fields out as the formats of R82 place them. -/

namespace Sys2Proof

/-- Why bytes are no instruction. -/
inductive DecodeError where
  /-- The word matches no row of the opcode map (30_encoding.md R87). -/
  | unknownOpcode (w : Word)
  /-- Fewer than two bytes are left, and every instruction is two bytes long (30_encoding.md R80). -/
  | truncated
  deriving DecidableEq, Repr

/-! ## Fields (30_encoding.md R81) -/

/-- `op = w[15:12]`, the opcode family. -/
def opField (w : Word) : BitVec 4 := w.extractLsb' 12 4

/-- `x = w[11:8]`. -/
def xField (w : Word) : Reg := (w.extractLsb' 8 4).toFin

/-- `y = w[7:4]`. -/
def yField (w : Word) : Reg := (w.extractLsb' 4 4).toFin

/-- `n = w[3:0]`. -/
def nField (w : Word) : RowCount := (w.extractLsb' 0 4).toFin

/-- `nn = w[7:0]`. -/
def nnField (w : Word) : Byte := w.extractLsb' 0 8

/-- `nnn = w[11:0]`. -/
def nnnField (w : Word) : Addr12 := w.extractLsb' 0 12

/-! ## Decoding (30_encoding.md R85) -/

/-- Family 0 matches the whole word. -/
def decodeFamily0 (w : Word) : Except DecodeError Instr :=
  if w = 0x00E0#16 then .ok .cls
  else if w = 0x00EE#16 then .ok .ret
  else .error (.unknownOpcode w)

/-- Family 5 requires `n = 0`. -/
def decodeFamily5 (w : Word) : Except DecodeError Instr :=
  if nField w = 0 then .ok (.seVxVy (xField w) (yField w)) else .error (.unknownOpcode w)

/-- Family 8 matches `n`. -/
def decodeFamily8 (w : Word) : Except DecodeError Instr :=
  match (nField w).val with
  | 0x0 => .ok (.ldVxVy (xField w) (yField w))
  | 0x1 => .ok (.orVxVy (xField w) (yField w))
  | 0x2 => .ok (.andVxVy (xField w) (yField w))
  | 0x3 => .ok (.xorVxVy (xField w) (yField w))
  | 0x4 => .ok (.addVxVy (xField w) (yField w))
  | 0x5 => .ok (.sub (xField w) (yField w))
  | 0x6 => .ok (.shr (xField w))
  | 0x7 => .ok (.subn (xField w) (yField w))
  | 0xE => .ok (.shl (xField w))
  | _ => .error (.unknownOpcode w)

/-- Family 9 requires `n = 0`. -/
def decodeFamily9 (w : Word) : Except DecodeError Instr :=
  if nField w = 0 then .ok (.sneVxVy (xField w) (yField w)) else .error (.unknownOpcode w)

/-- Family E matches `nn`. -/
def decodeFamilyE (w : Word) : Except DecodeError Instr :=
  if nnField w = 0x9E#8 then .ok (.skp (xField w))
  else if nnField w = 0xA1#8 then .ok (.sknp (xField w))
  else .error (.unknownOpcode w)

/-- Family F matches `nn`. -/
def decodeFamilyF (w : Word) : Except DecodeError Instr :=
  if nnField w = 0x07#8 then .ok (.ldVxDt (xField w))
  else if nnField w = 0x0A#8 then .ok (.ldVxK (xField w))
  else if nnField w = 0x15#8 then .ok (.ldDtVx (xField w))
  else if nnField w = 0x18#8 then .ok (.ldStVx (xField w))
  else if nnField w = 0x1E#8 then .ok (.addIVx (xField w))
  else if nnField w = 0x29#8 then .ok (.ldFVx (xField w))
  else if nnField w = 0x33#8 then .ok (.ldBVx (xField w))
  else if nnField w = 0x55#8 then .ok (.ldMemVx (xField w))
  else if nnField w = 0x65#8 then .ok (.ldVxMem (xField w))
  else .error (.unknownOpcode w)

/-- The decoder: every word is one instruction or is Unknown (30_encoding.md R85, R93). Every fixed digit of a pattern
must match (log 14). The last arm is family F: `op` has four bits. -/
def decode (w : Word) : Except DecodeError Instr :=
  match (opField w).toNat with
  | 0x0 => decodeFamily0 w
  | 0x1 => .ok (.jp (nnnField w))
  | 0x2 => .ok (.call (nnnField w))
  | 0x3 => .ok (.seVxNn (xField w) (nnField w))
  | 0x4 => .ok (.sneVxNn (xField w) (nnField w))
  | 0x5 => decodeFamily5 w
  | 0x6 => .ok (.ldVxNn (xField w) (nnField w))
  | 0x7 => .ok (.addVxNn (xField w) (nnField w))
  | 0x8 => decodeFamily8 w
  | 0x9 => decodeFamily9 w
  | 0xA => .ok (.ldINnn (nnnField w))
  | 0xB => .ok (.jpV0 (nnnField w))
  | 0xC => .ok (.rnd (xField w) (nnField w))
  | 0xD => .ok (.drw (xField w) (yField w) (nField w))
  | 0xE => decodeFamilyE w
  | _ => decodeFamilyF w

/-! ## Bytes (20_memory.md R52: high byte first) -/

/-- `(hi << 8) | lo`. -/
def wordOfBytes (hi lo : Byte) : Word := hi ++ lo

/-- The byte stored first, at the lower address. -/
def highByte (w : Word) : Byte := w.extractLsb' 8 8

/-- The byte stored second. -/
def lowByte (w : Word) : Byte := w.extractLsb' 0 8

/-- The instruction that a run of bytes begins with, and the bytes after it (30_encoding.md R80). -/
def decodeBytes : List Byte → Except DecodeError (Instr × List Byte)
  | hi :: lo :: rest =>
    match decode (wordOfBytes hi lo) with
    | .ok i => .ok (i, rest)
    | .error e => .error e
  | _ => .error .truncated

/-- The word that `nbits` bits of the number `w` give, the bits above them zero: this hardware has one 16-bit word an
instruction, and bit 0 of the table's numbering is its least significant bit (00_scope.md R8). -/
def tableWord (nbits w : Nat) : Word := BitVec.ofNat 16 (w % 2 ^ nbits)

/-- What the decoder reads from the bytes of that word, laid out as memory holds them. -/
def decodeTableWord (nbits w : Nat) : Option Instr :=
  match decodeBytes [highByte (tableWord nbits w), lowByte (tableWord nbits w)] with
  | .ok (i, _) => some i
  | .error _ => none

/-! ## Encoding (30_encoding.md R82) -/

/-- A four-bit field's bits. -/
def nibble (r : Fin 16) : BitVec 4 := BitVec.ofFin r

/-- Format A: `op | nnn`. -/
def formatA (op : BitVec 4) (nnn : Addr12) : Word := op ++ nnn

/-- Formats XK and XS: `op | x | nn`, nn an immediate or a selector byte. -/
def formatXK (op : BitVec 4) (x : Reg) (nn : Byte) : Word := op ++ nibble x ++ nn

/-- Formats XY and XYN: `op | x | y | n`, n a selector or a row count. -/
def formatXYN (op : BitVec 4) (x y : Reg) (n : BitVec 4) : Word := op ++ nibble x ++ nibble y ++ n

/-- The word of an instruction. SHR and SHL get `y = 0`, one of the 16 words that decode to them (R88; log 24). -/
def encode : Instr → Word
  | .cls => 0x00E0#16
  | .ret => 0x00EE#16
  | .jp nnn => formatA 0x1#4 nnn
  | .call nnn => formatA 0x2#4 nnn
  | .seVxNn x nn => formatXK 0x3#4 x nn
  | .sneVxNn x nn => formatXK 0x4#4 x nn
  | .seVxVy x y => formatXYN 0x5#4 x y 0x0#4
  | .ldVxNn x nn => formatXK 0x6#4 x nn
  | .addVxNn x nn => formatXK 0x7#4 x nn
  | .ldVxVy x y => formatXYN 0x8#4 x y 0x0#4
  | .orVxVy x y => formatXYN 0x8#4 x y 0x1#4
  | .andVxVy x y => formatXYN 0x8#4 x y 0x2#4
  | .xorVxVy x y => formatXYN 0x8#4 x y 0x3#4
  | .addVxVy x y => formatXYN 0x8#4 x y 0x4#4
  | .sub x y => formatXYN 0x8#4 x y 0x5#4
  | .shr x => formatXYN 0x8#4 x 0 0x6#4
  | .subn x y => formatXYN 0x8#4 x y 0x7#4
  | .shl x => formatXYN 0x8#4 x 0 0xE#4
  | .sneVxVy x y => formatXYN 0x9#4 x y 0x0#4
  | .ldINnn nnn => formatA 0xA#4 nnn
  | .jpV0 nnn => formatA 0xB#4 nnn
  | .rnd x nn => formatXK 0xC#4 x nn
  | .drw x y n => formatXYN 0xD#4 x y (nibble n)
  | .skp x => formatXK 0xE#4 x 0x9E#8
  | .sknp x => formatXK 0xE#4 x 0xA1#8
  | .ldVxDt x => formatXK 0xF#4 x 0x07#8
  | .ldVxK x => formatXK 0xF#4 x 0x0A#8
  | .ldDtVx x => formatXK 0xF#4 x 0x15#8
  | .ldStVx x => formatXK 0xF#4 x 0x18#8
  | .addIVx x => formatXK 0xF#4 x 0x1E#8
  | .ldFVx x => formatXK 0xF#4 x 0x29#8
  | .ldBVx x => formatXK 0xF#4 x 0x33#8
  | .ldMemVx x => formatXK 0xF#4 x 0x55#8
  | .ldVxMem x => formatXK 0xF#4 x 0x65#8

/-- An instruction's two bytes in memory order (20_memory.md R52). -/
def encodeBytes (i : Instr) : List Byte := [highByte (encode i), lowByte (encode i)]

end Sys2Proof
end

