-- ==== Sys2Proof/Config.lean ====
section
/-! DEFINITION. What an implementation fixes and what stays free: the types of the parameters of spec/00_scope.md R7 and
the free random byte of spec/40_engine.md R126. The parameters' default VALUES stand in Machine/Defaults.lean. -/

namespace Sys2Proof

/-- The parameter FLAG_ORDER (42_alu.md R151): which write of a flag-setting ALU instruction comes last, and so which
value VF keeps when `x = 0xF`. The spec leaves it open (92_eei_decisions.md D11). -/
inductive FlagOrder where
  /-- VF is written with the flag, then V[x] with the result: the spec's default. -/
  | flagThenResult
  /-- V[x] is written with the result, then VF with the flag. -/
  | resultThenFlag
  deriving DecidableEq, Repr

/-- The parameters that a step depends on (00_scope.md R7). They are constants of one machine. State carries them, so that
a statement about every state holds for every value of them (log 1, log 2). -/
structure Params where
  /-- FLAG_ORDER (42_alu.md R151). -/
  flagOrder : FlagOrder
  /-- STACK_DEPTH (10_state.md R25). -/
  stackDepth : Nat
  deriving DecidableEq, Repr

/-- FREE VALUE (log 20): the random byte that the `k`-th executed Cxnn draws, any value from 0 to 255 (40_engine.md R126).
It has no body, so nothing can evaluate it or prove a value of it. -/
opaque Config.randomByte (k : Nat) : Byte

/-- MEM_SIZE: 4096 bytes, addresses 0 to 4095 (20_memory.md R50). -/
abbrev Config.memSize : Nat := 4096

/-- PROGRAM_BASE: 0x200 (20_memory.md R57). -/
abbrev Config.programBase : Nat := 0x200

end Sys2Proof
end

