-- ==== Sys2Proof/Machine/Defaults.lean ====
section
/-! DEFINITION. The default values of the parameters of spec/00_scope.md R7. Each is the spec's own default, not the
source's word: see the log entry each definition names. -/

namespace Sys2Proof.Machine

/-- FLAG_ORDER = FlagThenResult (DESIGN CHOICE, log 1) and STACK_DEPTH = 16 (DESIGN CHOICE, log 2). -/
def defaultParams : Params := { flagOrder := .flagThenResult, stackDepth := 16 }

/-- INIT_REGS for V0..VF, DT and ST: 0 (DESIGN CHOICE, log 3; 10_state.md R35). -/
def initByte : Byte := 0x00#8

/-- INIT_REGS for I: 0 (DESIGN CHOICE, log 3; 10_state.md R35). -/
def initIndex : Word := 0x0000#16

/-- INIT_MEM: every byte of 0x050..0xFFF is 0 at reset (DESIGN CHOICE, log 4; 10_state.md R35). -/
def initMemByte : Byte := 0x00#8

/-- Glyphs 0 to 7 of FONT_TABLE (20_memory.md R59). -/
def fontLow : List Byte := [
  0xF0#8, 0x90#8, 0x90#8, 0x90#8, 0xF0#8,
  0x20#8, 0x60#8, 0x20#8, 0x20#8, 0x70#8,
  0xF0#8, 0x10#8, 0xF0#8, 0x80#8, 0xF0#8,
  0xF0#8, 0x10#8, 0xF0#8, 0x10#8, 0xF0#8,
  0x90#8, 0x90#8, 0xF0#8, 0x10#8, 0x10#8,
  0xF0#8, 0x80#8, 0xF0#8, 0x10#8, 0xF0#8,
  0xF0#8, 0x80#8, 0xF0#8, 0x90#8, 0xF0#8,
  0xF0#8, 0x10#8, 0x20#8, 0x40#8, 0x40#8]

/-- Glyphs 8 to F of FONT_TABLE (20_memory.md R59). -/
def fontHigh : List Byte := [
  0xF0#8, 0x90#8, 0xF0#8, 0x90#8, 0xF0#8,
  0xF0#8, 0x90#8, 0xF0#8, 0x10#8, 0xF0#8,
  0xF0#8, 0x90#8, 0xF0#8, 0x90#8, 0x90#8,
  0xE0#8, 0x90#8, 0xE0#8, 0x90#8, 0xE0#8,
  0xF0#8, 0x80#8, 0x80#8, 0x80#8, 0xF0#8,
  0xE0#8, 0x90#8, 0x90#8, 0x90#8, 0xE0#8,
  0xF0#8, 0x80#8, 0xF0#8, 0x80#8, 0xF0#8,
  0xF0#8, 0x80#8, 0xF0#8, 0x80#8, 0x80#8]

/-- FONT_TABLE: 16 glyphs of 5 bytes, glyph `d` at address `5 * d` (20_memory.md R57, R59). The layout is the source's;
the bytes are the conventional font (PRESUMED, log 5). -/
def fontTable : List Byte := fontLow ++ fontHigh

/-- The byte that reset leaves at an address: the font at 0x000..0x04F, INIT_MEM above it (10_state.md R35). -/
def resetByte (a : Nat) : Byte := fontTable.getD a initMemByte

end Sys2Proof.Machine
end

