-- ==== Sys2Proof/Machine/State.lean ====
section
/-! DEFINITION. The machine's state as plain data: everything spec/10_state.md gives the block, and reset (R35). -/

namespace Sys2Proof.Machine

/-- Memory's contents: the cells that differ from what reset leaves there, addresses strictly rising
(20_memory.md R50; the form is `Memory.wf` in Machine/Ops.lean). -/
abbrev Memory := List Host.Cell

/-- The display surface: 32 rows of 64 pixels, row `y` and column `x` at `[y][x]` (10_state.md R30). -/
abbrev Display := Vector (Vector Bool 64) 32

/-- The engine mode (10_state.md R33). -/
inductive Mode where
  /-- The engine fetches. -/
  | running
  /-- Fx0A waits for a key; the completing step writes V[x]. -/
  | awaitingKey (x : Reg)
  deriving DecidableEq, Repr

/-- The space an out-of-range access names (60_exceptions.md R240). -/
inductive Space where
  /-- The 4096 bytes of memory. -/
  | memory
  /-- The 16 keys. -/
  | keypad
  deriving DecidableEq, Repr

/-- The fault kinds, exactly five (60_exceptions.md R240), each with the value recorded there (log 12). A fault is the
result of the operation that raised it, never stored (R241). When `step` or `loadProgram` answers with one, the operation
changed no state (40_engine.md R121), which is safe: a run that stops there claims nothing beyond. -/
inductive Fault where
  /-- A memory access at 4096 or above, raised by the fetch, Dxyn, Fx33, Fx55 and Fx65 with the lowest out-of-range
  address; or a key number of 16 or above, raised by Ex9E and ExA1 with Vx. Safe. -/
  | outOfRangeAddress (space : Space) (a : Nat)
  /-- 2nnn with STACK_DEPTH entries on the stack, raised by 2nnn with its pc. Safe. -/
  | stackOverflow (pc : Word)
  /-- 00EE with an empty stack, raised by 00EE with its pc. Safe. -/
  | stackUnderflow (pc : Word)
  /-- A program of more than 3584 bytes, raised by `loadProgram` with the length. Safe. -/
  | capacityExceeded (len : Nat)
  /-- A word that matches no pattern, reported by the step that fetched it. The machine goes on with PC advanced
  (40_engine.md R115), so `step` answers a next state for it and `hostStep` reports this value beside that state. Safe. -/
  | unknownOpcode (w : Word)
  deriving DecidableEq, Repr

/-- Why an instruction would have no meaning. -/
inductive Refusal where
  /-- An instruction whose arm of `exec` has no meaning yet. No arm is one now. Safe. -/
  | notModelled (mnemonic : String)
  deriving DecidableEq, Repr

/-- The whole state (10_state.md, the record after R34). -/
structure State where
  /-- The 4096 bytes of memory, as the cells that differ from reset (R32). -/
  mem : Memory
  /-- V0..VF; VF is the flag register (R20, R21). -/
  v : Vector Byte 16
  /-- I, the index register (R26). -/
  i : Word
  /-- PC (R23). -/
  pc : Word
  /-- The call stack, newest return address first (R25). -/
  stack : List Word
  /-- DT, the delay timer (R27). -/
  dt : Byte
  /-- ST, the sound timer (R28). -/
  st : Byte
  /-- The display surface (R30). -/
  disp : Display
  /-- The keypad, true for pressed (R31). -/
  keys : Vector Bool 16
  /-- The engine mode (R33). -/
  mode : Mode
  /-- The MODEL's own: the machine's parameters, constants that no operation writes (00_scope.md R7; log 1, log 2). -/
  cfg : Params
  /-- The MODEL's own: how many random bytes Cxnn has drawn, which selects the next free one (40_engine.md R126; log 20). -/
  draws : Nat
  deriving DecidableEq, Repr

/-- A display with every pixel unset. -/
def Display.clear : Display := Vector.replicate 32 (Vector.replicate 64 false)

/-- The machine right after reset, under the default parameters (10_state.md R35, 70_reset_and_hazards.md R280, R282).
PC is the source's value; the font's layout is the source's; the other values are the log's 3 to 7. -/
def State.reset : State where
  mem := []
  v := Vector.replicate 16 initByte
  i := initIndex
  pc := 0x200#16
  stack := []
  dt := initByte
  st := initByte
  disp := Display.clear
  keys := Vector.replicate 16 false
  mode := .running
  cfg := defaultParams
  draws := 0

end Sys2Proof.Machine
end

