-- ==== Sys2Proof/Machine/Ops.lean ====
section
/-! DEFINITION. The named operations over registers, memory, the stack, the program counter and the keypad, and the one
way an instruction raises a fault (spec/00_scope.md R10, R11). -/

namespace Sys2Proof.Machine

/-- What a step or an instruction answers. -/
abbrev Outcome := Host.Outcome State Fault Refusal

/-! ## Raising a fault

A fault saves no state, switches no mode and goes to no handler: control returns to the host with the fault as the result
(60_exceptions.md R241, R247), and there is no return from one (R248). Every check stands before every write
(40_engine.md R121), so a raised fault leaves the state the caller holds. -/

/-- `raise F(info)` of 00_scope.md R10. -/
def raise (f : Fault) : Outcome := .fault f

/-! ## Registers -/

/-- `V[x]` (10_state.md R20). -/
def State.getV (s : State) (x : Reg) : Byte := s.v.get x

/-- `V[x] <- b`. -/
def State.setV (s : State) (x : Reg) (b : Byte) : State := { s with v := s.v.set x.val b }

/-- All sixteen registers at once, for Fx65. -/
def State.setRegs (s : State) (v : Vector Byte 16) : State := { s with v := v }

/-- `I <- w`. -/
def State.setI (s : State) (w : Word) : State := { s with i := w }

/-- `DT <- b`. -/
def State.setDt (s : State) (b : Byte) : State := { s with dt := b }

/-- `ST <- b`. -/
def State.setSt (s : State) (b : Byte) : State := { s with st := b }

/-- The engine mode's only writer (10_state.md R33). -/
def State.setMode (s : State) (m : Mode) : State := { s with mode := m }

/-- The display's only writer (10_state.md R30). -/
def State.setDisp (s : State) (d : Display) : State := { s with disp := d }

/-- The call stack's only writer (10_state.md R25). -/
def State.setStack (s : State) (l : List Word) : State := { s with stack := l }

/-- Memory's only writer. -/
def State.setMem (s : State) (m : Memory) : State := { s with mem := m }

/-- The step's random byte `r` (40_engine.md R126; log 20). -/
def State.randomByte (s : State) : Byte := Config.randomByte s.draws

/-- One random byte is consumed (42_alu.md R163). -/
def State.nextDraw (s : State) : State := { s with draws := s.draws + 1 }

/-! ## The program counter (40_engine.md R117 to R119: every sum is modulo 65536) -/

/-- `pc <- w`. -/
def State.setPc (s : State) (w : Word) : State := { s with pc := w }

/-- `pc + 2`: the address after this instruction. -/
def State.nextPc (s : State) : Word := s.pc + 2#16

/-- `pc <- pc + 2`. -/
def State.advance (s : State) : State := s.setPc s.nextPc

/-- A skip form: `pc + 4` when the condition holds, `pc + 2` otherwise (40_engine.md R118). -/
def State.skipIf (s : State) (c : Bool) : State := s.setPc (if c then s.pc + 4#16 else s.nextPc)

/-! ## Memory (20_memory.md) -/

/-- What an address that memory does not list reads as: the reset contents (10_state.md R35; log 4, log 5). -/
def Memory.unlisted (a : Nat) : Byte := resetByte a

/-- The byte at an address. -/
def Memory.byteAt : Memory → Nat → Byte
  | [], a => Memory.unlisted a
  | c :: m, a => if a < c.1 then Memory.unlisted a else if a = c.1 then c.2 else Memory.byteAt m a

/-- The cells that hold byte `b` at address `a`: none when an unlisted address reads as `b`. -/
def Memory.cellOf (a : Nat) (b : Byte) : Memory := if b = Memory.unlisted a then [] else [(a, b)]

/-- The list with byte `b` at address `a`. -/
def Memory.insert : Memory → Nat → Byte → Memory
  | [], a, b => Memory.cellOf a b
  | c :: m, a, b =>
    if a < c.1 then Memory.cellOf a b ++ (c :: m)
    else if a = c.1 then Memory.cellOf a b ++ m
    else c :: Memory.insert m a b

/-- One byte is written. Outside 0 to 4095 the access is not performed (20_memory.md R51). -/
def Memory.write (m : Memory) (a : Nat) (b : Byte) : Memory :=
  if a < Config.memSize then Memory.insert m a b else m

/-- Bytes written at `a`, `a + 1`, ... in this order (20_memory.md R53). -/
def Memory.writeBytes : Memory → Nat → List Byte → Memory
  | m, _, [] => m
  | m, a, b :: bs => Memory.writeBytes (Memory.write m a b) (a + 1) bs

/-- The `n` bytes at `a`, `a + 1`, ... (20_memory.md R53). -/
def Memory.readBytes (m : Memory) (a n : Nat) : List Byte := (List.range n).map fun k => m.byteAt (a + k)

/-- The canonical form from address `lo` on. -/
def Memory.wfFrom : Nat → Memory → Bool
  | _, [] => true
  | lo, c :: m => decide (lo ≤ c.1) && decide (c.1 < Config.memSize) && decide (c.2 ≠ Memory.unlisted c.1)
      && Memory.wfFrom (c.1 + 1) m

/-- The canonical form: addresses strictly rising and below 4096, no cell equal to what an unlisted address reads as. -/
def Memory.wf (m : Memory) : Bool := Memory.wfFrom 0 m

/-- `MemRead(addr, 1)` (00_scope.md R11). -/
def State.memRead (s : State) (a : Nat) : Except Fault Byte :=
  if a < Config.memSize then .ok (s.mem.byteAt a) else .error (.outOfRangeAddress .memory a)

/-! ## Keypad accessors (60_exceptions.md R255) -/

/-- `is_pressed(k)`. -/
def State.isPressed (s : State) (k : Key) : Bool := s.keys.get k

/-- `first_pressed()`: the lowest pressed key, or none. -/
def State.firstPressed (s : State) : Option Key := (List.finRange 16).find? fun k => s.isPressed k

/-- A key number as the byte a register receives. -/
def keyByte (k : Key) : Byte := BitVec.ofNat 8 k.val

/-! ## Display accessors (10_state.md R30) -/

/-- `Disp[y][x]`, the coordinates reduced to the surface (44_display.md R203). -/
def Display.pixel (d : Display) (x y : Nat) : Bool :=
  (d[y % 32]'(Nat.mod_lt _ (by decide)))[x % 64]'(Nat.mod_lt _ (by decide))

/-- `Disp[y][x] <- b`, the coordinates reduced to the surface. -/
def Display.setPixel (d : Display) (x y : Nat) (b : Bool) : Display :=
  d.set (y % 32) ((d[y % 32]'(Nat.mod_lt _ (by decide))).set (x % 64) b (Nat.mod_lt _ (by decide)))
    (Nat.mod_lt _ (by decide))

end Sys2Proof.Machine
end

