-- ==== Sys2Proof/Machine/Operands.lean ====
section
/-! DEFINITION. The operand forms: immediates widened with zeros (spec/30_encoding.md R83), the one addressing mode
"I plus a small offset" (spec/43_index_memory.md R186), the font glyph's address (R182), and the decimal digits (R183). -/

namespace Sys2Proof.Machine

/-- `zext_16(nnn)` (00_scope.md R9). -/
def addressOf (nnn : Addr12) : Word := nnn.setWidth 16

/-- `zext_16(nnn) + zext_16(V0)` (41_control_flow.md R137). -/
def offsetAddress (nnn : Addr12) (v0 : Byte) : Word := nnn.setWidth 16 + v0.setWidth 16

/-- `(I + Vx) mod 65536` (43_index_memory.md R181; log 9). -/
def indexPlus (i : Word) (vx : Byte) : Word := i + vx.setWidth 16

/-- `Vx * 5`, unmasked (43_index_memory.md R182; log 18). -/
def glyphAddress (vx : Byte) : Word := BitVec.ofNat 16 (vx.toNat * 5)

/-- `Vx div 100`, `(Vx div 10) mod 10`, `Vx mod 10` (43_index_memory.md R183). -/
def decimalDigits (vx : Byte) : List Byte :=
  [BitVec.ofNat 8 (vx.toNat / 100), BitVec.ofNat 8 (vx.toNat / 10 % 10), BitVec.ofNat 8 (vx.toNat % 10)]

/-- The effective address of a transfer's byte `k`, an exact natural that never wraps (43_index_memory.md R186; log 9). -/
def State.effectiveAddress (s : State) (k : Nat) : Nat := s.i.toNat + k

/-- A transfer of `count` bytes reaches 4096 or above; one of no byte never does (43_index_memory.md R186,
44_display.md R205). -/
def State.transferOutOfRange (s : State) (count : Nat) : Bool :=
  decide (0 < count) && decide (Config.memSize ≤ s.effectiveAddress (count - 1))

/-- The fault of such a transfer, with the lowest out-of-range address (43_index_memory.md R186; log 12). -/
def State.transferFault (s : State) : Fault := .outOfRangeAddress .memory (max s.i.toNat Config.memSize)

/-- An instruction with a transfer of `count` bytes: the check first, and only then its effect, so that a fault leaves
nothing half done (40_engine.md R121; log 10). -/
def State.transfer (s : State) (count : Nat) (done : State) : Outcome :=
  if s.transferOutOfRange count then raise s.transferFault else .next done

/-- The bytes V0..Vx, for Fx55 (43_index_memory.md R184). -/
def State.regsUpTo (s : State) (x : Reg) : List Byte := s.v.toList.take (x.val + 1)

/-- The registers after V0..Vx are loaded from memory at I (43_index_memory.md R185). -/
def State.regsLoaded (s : State) (x : Reg) : Vector Byte 16 :=
  Vector.ofFn fun r : Fin 16 => if r ≤ x then s.mem.byteAt (s.effectiveAddress r.val) else s.getV r

/-- The key that Vx names, when it names one (45_keypad_timers.md R222; log 17). -/
def keyOf (vx : Byte) : Option Key := if h : vx.toNat < 16 then some ⟨vx.toNat, h⟩ else none

end Sys2Proof.Machine
end

