-- ==== Sys2Proof/Machine/Flags.lean ====
section
/-! DEFINITION. The flag computations (spec/10_state.md R24, spec/42_alu.md) and the one operation that writes a flag and a
result (R151). Every flag is computed from the exact natural numbers, before anything is reduced modulo 256 (R150). -/

namespace Sys2Proof.Machine

/-- A flag as the byte VF receives: 1 or 0. -/
def flagByte (b : Bool) : Byte := if b then 1#8 else 0#8

/-- 8xy4: 1 when the exact sum is above 255 (42_alu.md R158). -/
def carryFlag (vx vy : Byte) : Byte := flagByte (decide (vx.toNat + vy.toNat > 255))

/-- 8xy5 with `(Vx, Vy)` and 8xy7 with `(Vy, Vx)`: 1 when there is no borrow, equality included (42_alu.md R159, R161). -/
def noBorrowFlag (a b : Byte) : Byte := flagByte (decide (a.toNat ≥ b.toNat))

/-- 8xy6: the old bit 0 (42_alu.md R160). -/
def shiftOutLow (vx : Byte) : Byte := flagByte (vx.getLsbD 0)

/-- 8xyE: the old bit 7 (42_alu.md R162). -/
def shiftOutHigh (vx : Byte) : Byte := flagByte (vx.getLsbD 7)

/-- `write_flag_and_result(x, flag, result)` (42_alu.md R151; log 1). The two orders differ only when `x = 0xF`. -/
def State.writeFlagAndResult (s : State) (x : Reg) (flag result : Byte) : State :=
  match s.cfg.flagOrder with
  | .flagThenResult => (s.setV Reg.vf flag).setV x result
  | .resultThenFlag => (s.setV x result).setV Reg.vf flag

end Sys2Proof.Machine
end

