-- ==== Sys2Proof/Machine/Alu.lean ====
section
/-! DEFINITION. Register loads and the ALU (spec/42_alu.md): 6xnn, 7xnn, 8xy0 to 8xy7, 8xyE, Cxnn. Operands are read before
any write (spec/40_engine.md R120; log 13), results are reduced modulo 256 (R150), and each instruction then advances PC
by 2. -/

namespace Sys2Proof.Machine

/-- `(a + b) mod 256` (R150). -/
def sumByte (a b : Byte) : Byte := BitVec.ofNat 8 (a.toNat + b.toNat)

/-- `(a - b) mod 256` (R159: `a - b + 256` when `a < b`). -/
def diffByte (a b : Byte) : Byte := BitVec.ofNat 8 (a.toNat + 256 - b.toNat)

/-- R152. -/
def execLdVxNn (x : Reg) (nn : Byte) (s : State) : Outcome := .next (s.setV x nn).advance

/-- R153: no flag effect. -/
def execAddVxNn (x : Reg) (nn : Byte) (s : State) : Outcome := .next (s.setV x (sumByte (s.getV x) nn)).advance

/-- R154. -/
def execLdVxVy (x y : Reg) (s : State) : Outcome := .next (s.setV x (s.getV y)).advance

/-- R155: no flag effect. -/
def execOr (x y : Reg) (s : State) : Outcome := .next (s.setV x (s.getV x ||| s.getV y)).advance

/-- R156: no flag effect. -/
def execAnd (x y : Reg) (s : State) : Outcome := .next (s.setV x (s.getV x &&& s.getV y)).advance

/-- R157: no flag effect. -/
def execXor (x y : Reg) (s : State) : Outcome := .next (s.setV x (s.getV x ^^^ s.getV y)).advance

/-- R158: VF is the carry out of bit 7. -/
def execAddVxVy (x y : Reg) (s : State) : Outcome :=
  .next (s.writeFlagAndResult x (carryFlag (s.getV x) (s.getV y)) (sumByte (s.getV x) (s.getV y))).advance

/-- R159: VF is 1 when there is no borrow. -/
def execSub (x y : Reg) (s : State) : Outcome :=
  .next (s.writeFlagAndResult x (noBorrowFlag (s.getV x) (s.getV y)) (diffByte (s.getV x) (s.getV y))).advance

/-- R160: the shifted register is Vx, and VF is the bit shifted out. -/
def execShr (x : Reg) (s : State) : Outcome :=
  .next (s.writeFlagAndResult x (shiftOutLow (s.getV x)) (s.getV x >>> 1)).advance

/-- R161: the reverse subtraction. -/
def execSubn (x y : Reg) (s : State) : Outcome :=
  .next (s.writeFlagAndResult x (noBorrowFlag (s.getV y) (s.getV x)) (diffByte (s.getV y) (s.getV x))).advance

/-- R162: the shifted register is Vx, and VF is the bit shifted out. -/
def execShl (x : Reg) (s : State) : Outcome :=
  .next (s.writeFlagAndResult x (shiftOutHigh (s.getV x)) (s.getV x <<< 1)).advance

/-- R163: the step's random byte under the mask `nn`; the byte is consumed (log 20). -/
def execRnd (x : Reg) (nn : Byte) (s : State) : Outcome :=
  .next ((s.setV x (nn &&& s.randomByte)).nextDraw).advance

end Sys2Proof.Machine
end

