-- ==== Sys2Proof/Machine/Control.lean ====
section
/-! DEFINITION. Control transfer and skips (spec/41_control_flow.md): 00EE, 1nnn, 2nnn, 3xnn, 4xnn, 5xy0, 9xy0, Bnnn. No
target is checked when it is computed; the next fetch checks it (R138). -/

namespace Sys2Proof.Machine

/-- R130: the popped address is used as it is, and PC is not advanced after it. -/
def execRet (s : State) : Outcome :=
  match s.stack with
  | [] => raise (.stackUnderflow s.pc)
  | a :: rest => .next ((s.setStack rest).setPc a)

/-- R131. -/
def execJp (nnn : Addr12) (s : State) : Outcome := .next (s.setPc (addressOf nnn))

/-- R132: the pushed value is the address after the 2nnn. -/
def execCall (nnn : Addr12) (s : State) : Outcome :=
  if s.cfg.stackDepth ≤ s.stack.length then raise (.stackOverflow s.pc)
  else .next ((s.setStack (s.nextPc :: s.stack)).setPc (addressOf nnn))

/-- R133. -/
def execSeVxNn (x : Reg) (nn : Byte) (s : State) : Outcome := .next (s.skipIf (s.getV x == nn))

/-- R134. -/
def execSneVxNn (x : Reg) (nn : Byte) (s : State) : Outcome := .next (s.skipIf (s.getV x != nn))

/-- R135. -/
def execSeVxVy (x y : Reg) (s : State) : Outcome := .next (s.skipIf (s.getV x == s.getV y))

/-- R136. -/
def execSneVxVy (x y : Reg) (s : State) : Outcome := .next (s.skipIf (s.getV x != s.getV y))

/-- R137: the offset register is always V0, and the sum is kept as it is. -/
def execJpV0 (nnn : Addr12) (s : State) : Outcome := .next (s.setPc (offsetAddress nnn (s.getV Reg.v0)))

end Sys2Proof.Machine
end

