-- ==== Sys2Proof/Machine/Display.lean ====
section
/-! DEFINITION. The display and the sprite XOR compositor (spec/44_display.md): 00E0, Dxyn. -/

namespace Sys2Proof.Machine

/-- `sprite bit(row, col) = (byte >> (7 - col)) & 1` (R200; log 15). -/
def spriteBit (b : Byte) (col : Nat) : Bool := b.getLsbD (7 - col)

/-- What a draw has done so far: the surface and the collision flag. -/
abbrev DrawState := Display × Bool

/-- One sprite bit: a 1 bit inverts its pixel, and a collision is a 1 bit over a set pixel (R202, R204). -/
def drawBit (cx cy : Nat) (b : Byte) (acc : DrawState) (col : Nat) : DrawState :=
  if spriteBit b col then
    (acc.1.setPixel (cx + col) cy (!acc.1.pixel (cx + col) cy), acc.2 || acc.1.pixel (cx + col) cy)
  else acc

/-- The eight columns of one sprite byte on screen row `cy` (R200). -/
def drawRow (cx cy : Nat) (b : Byte) (acc : DrawState) : DrawState := (List.range 8).foldl (drawBit cx cy b) acc

/-- The sprite's bytes on rows `cy`, `cy + 1`, ... (R202); the coordinates wrap where a pixel is reached (R203). -/
def drawRows (cx : Nat) : Nat → List Byte → DrawState → DrawState
  | _, [], acc => acc
  | cy, b :: bs, acc => drawRows cx (cy + 1) bs (drawRow cx cy b acc)

/-- The sprite of `n` bytes at I (R200). -/
def State.sprite (s : State) (n : RowCount) : List Byte := s.mem.readBytes s.i.toNat n.val

/-- The surface and the collision flag after the whole sprite is drawn at (Vx, Vy) (R202). -/
def State.drawn (s : State) (x y : Reg) (n : RowCount) : DrawState :=
  drawRows (s.getV x).toNat (s.getV y).toNat (s.sprite n) (s.disp, false)

/-- R201. -/
def execCls (s : State) : Outcome := .next (s.setDisp Display.clear).advance

/-- R202: VF is written once, after the pixels, by every Dxyn that completes (R204). -/
def execDrw (x y : Reg) (n : RowCount) (s : State) : Outcome :=
  s.transfer n.val ((s.setDisp (s.drawn x y n).1).setV Reg.vf (flagByte (s.drawn x y n).2)).advance

end Sys2Proof.Machine
end

