-- ==== Sys2Proof/Machine/IndexMemory.lean ====
section
/-! DEFINITION. The index register and memory transfers (spec/43_index_memory.md): Annn, Fx1E, Fx29, Fx33, Fx55, Fx65. No
transfer changes I (R186). -/

namespace Sys2Proof.Machine

/-- R180. -/
def execLdINnn (nnn : Addr12) (s : State) : Outcome := .next (s.setI (addressOf nnn)).advance

/-- R181: I is never clamped to 12 bits, and no flag is written. -/
def execAddIVx (x : Reg) (s : State) : Outcome := .next (s.setI (indexPlus s.i (s.getV x))).advance

/-- R182. -/
def execLdFVx (x : Reg) (s : State) : Outcome := .next (s.setI (glyphAddress (s.getV x))).advance

/-- R183: three digits at I, I + 1, I + 2. -/
def execLdBVx (x : Reg) (s : State) : Outcome :=
  s.transfer 3 (s.setMem (s.mem.writeBytes s.i.toNat (decimalDigits (s.getV x)))).advance

/-- R184: V0..Vx at I, I + 1, ... -/
def execLdMemVx (x : Reg) (s : State) : Outcome :=
  s.transfer (x.val + 1) (s.setMem (s.mem.writeBytes s.i.toNat (s.regsUpTo x))).advance

/-- R185: V0..Vx from I, I + 1, ... -/
def execLdVxMem (x : Reg) (s : State) : Outcome := s.transfer (x.val + 1) (s.setRegs (s.regsLoaded x)).advance

end Sys2Proof.Machine
end

