-- ==== Sys2Proof/Machine/Keypad.lean ====
section
/-! DEFINITION. Keypad and timer instructions (spec/45_keypad_timers.md): Ex9E, ExA1, Fx07, Fx0A, Fx15, Fx18. -/

namespace Sys2Proof.Machine

/-- A key skip: the condition is asked of the key that Vx names; a Vx of 16 or above names none (R222; log 17). -/
def State.keySkip (s : State) (vx : Byte) (cond : Key → Bool) : Outcome :=
  match keyOf vx with
  | none => raise (.outOfRangeAddress .keypad vx.toNat)
  | some k => .next (s.skipIf (cond k))

/-- R220. -/
def execSkp (x : Reg) (s : State) : Outcome := s.keySkip (s.getV x) fun k => s.isPressed k

/-- R221. -/
def execSknp (x : Reg) (s : State) : Outcome := s.keySkip (s.getV x) fun k => !s.isPressed k

/-- R223. -/
def execLdVxDt (x : Reg) (s : State) : Outcome := .next (s.setV x s.dt).advance

/-- A key ends the wait: V[x] receives it and PC passes the Fx0A (R224, 40_engine.md R111). -/
def State.takeKey (s : State) (x : Reg) (k : Key) : State := (s.setV x (keyByte k)).advance

/-- R224: a key already pressed ends the wait at once; otherwise PC stays and the engine waits (log 19). -/
def execLdVxK (x : Reg) (s : State) : Outcome :=
  match s.firstPressed with
  | some k => .next (s.takeKey x k)
  | none => .next (s.setMode (.awaitingKey x))

/-- R225. -/
def execLdDtVx (x : Reg) (s : State) : Outcome := .next (s.setDt (s.getV x)).advance

/-- R226. -/
def execLdStVx (x : Reg) (s : State) : Outcome := .next (s.setSt (s.getV x)).advance

end Sys2Proof.Machine
end

