-- ==== Sys2Proof/Machine/Fetch.lean ====
section
/-! DEFINITION. The parts of `step` around `exec` (spec/40_engine.md): the fetch, the unmapped word, the waiting step. -/

namespace Sys2Proof.Machine

/-- The instruction word at PC, from the current memory, PC odd or even (R112); the first byte out of range is the fault's
address (R113). -/
def State.fetchWord (s : State) : Except Fault Word :=
  match s.memRead s.pc.toNat with
  | .error f => .error f
  | .ok hi =>
    match s.memRead (s.pc.toNat + 1) with
    | .error f => .error f
    | .ok lo => .ok (wordOfBytes hi lo)

/-- An Unknown word does not stop the machine: PC advances by 2 and nothing else changes (R115; log 11). -/
def unknownWord (s : State) : Outcome := .next s.advance

/-- A step in `AwaitingKey(x)`: nothing changes until a key is pressed; then V[x], PC and the mode are written (R111). -/
def awaitKey (x : Reg) (s : State) : Outcome :=
  match s.firstPressed with
  | none => .next s
  | some k => .next ((s.takeKey x k).setMode .running)

/-- Where the host stores a word to have it run next: PC, or the program base when PC can fetch nothing (R113; log 23). -/
def State.placePc (s : State) : Word := if s.pc.toNat + 1 < Config.memSize then s.pc else BitVec.ofNat 16 Config.programBase

/-- The state with a word stored, high byte first, where the next step fetches: the engine runs and PC is that place. -/
def State.placeWord (s : State) (w : Word) : State :=
  ((s.setMem (s.mem.writeBytes s.placePc.toNat [highByte w, lowByte w])).setPc s.placePc).setMode .running

end Sys2Proof.Machine
end

