-- ==== Sys2Proof/Machine/Step.lean ====
section
/-! DEFINITION. One step of the engine (spec/40_engine.md R110): the mode test (R111), the fetch (R112, R113), the decode
(R114), the unmapped word (R115), the instruction (R116). The meaning of an instruction writes PC itself (R117), so a step
adds nothing around `exec`. -/

namespace Sys2Proof.Machine

/-- `step()` (R110). Its random byte is the free value that `draws` selects (R126); what it returns beside the next state
is `hostStep`'s second part (Machine/HostOps.lean). -/
def step (s : State) : Host.Outcome State Fault Refusal :=
  match s.mode with
  | .awaitingKey x => awaitKey x s
  | .running =>
    match s.fetchWord with
    | .error f => raise f
    | .ok w =>
      match decode w with
      | .error _ => unknownWord s
      | .ok i => exec i s

/-- The state whose next step fetches and runs the instruction of the number `w` (log 23). -/
def State.withFetchWord (s : State) (nbits w : Nat) : State := s.placeWord (tableWord nbits w)

end Sys2Proof.Machine
end

