-- ==== Sys2Proof/Machine/HostOps.lean ====
section
/-! DEFINITION. The host's side of the interface (spec/00_scope.md R6, spec/60_exceptions.md): load_program, tick, set_key,
what a step returns, the read ports, reset under any parameters, and any order of these operations (R261). -/

namespace Sys2Proof.Machine

/-! ## Load, timers, keypad -/

/-- `load_program(bytes)`: the bytes from 0x200 on, or CapacityExceeded and no write (20_memory.md R60, R61; log 22). -/
def loadProgram (bytes : List Byte) (s : State) : Outcome :=
  if imageWellFormed bytes then .next (s.setMem (s.mem.writeBytes Config.programBase bytes))
  else raise (.capacityExceeded bytes.length)

/-- One countdown, floored at 0 (60_exceptions.md R251). -/
def countDown (b : Byte) : Byte := BitVec.ofNat 8 (b.toNat - 1)

/-- `tick()`: both timers count down, and nothing else changes (60_exceptions.md R251). -/
def State.tick (s : State) : State := (s.setDt (countDown s.dt)).setSt (countDown s.st)

/-- `set_key(k, pressed)`: it writes key `k` and nothing else, and never ends a key wait (60_exceptions.md R254). -/
def State.setKey (s : State) (k : Key) (pressed : Bool) : State := { s with keys := s.keys.set k.val pressed }

/-! ## Read ports -/

/-- `is_blocked()` (40_engine.md R125). -/
def State.isBlocked (s : State) : Bool :=
  match s.mode with
  | .running => false
  | .awaitingKey _ => true

/-- The sound-active output, `ST != 0` (60_exceptions.md R253). -/
def State.soundActive (s : State) : Bool := s.st != 0#8

/-- The display port: the pixel at column `x`, row `y` (60_exceptions.md R256). -/
def State.pixel (s : State) (x y : Nat) : Bool := s.disp.pixel x y

/-! ## What an operation returns -/

/-- The result of a host operation: Ok, or a fault with its recorded value (40_engine.md R110, 60_exceptions.md R241). -/
inductive OpResult where
  /-- The operation completed. -/
  | ok
  /-- The operation returned this fault. -/
  | fault (f : Fault)
  /-- The model has no meaning for the instruction. No step of this model answers so. -/
  | refused (r : Refusal)
  deriving DecidableEq, Repr

/-- The word a step is about to find unmapped, if it is (40_engine.md R115). -/
def State.unknownWordNext (s : State) : Option Word :=
  match s.mode with
  | .awaitingKey _ => none
  | .running =>
    match s.fetchWord with
    | .error _ => none
    | .ok w =>
      match decode w with
      | .error _ => some w
      | .ok _ => none

/-- What a step that goes on returns: UnknownOpcode with the word when it found one, Ok otherwise (40_engine.md R115). -/
def State.goOnResult (s : State) : OpResult :=
  match s.unknownWordNext with
  | some w => .fault (.unknownOpcode w)
  | none => .ok

/-- The state and the result that an outcome gives the host; after a fault the state is the one before (40_engine.md R121). -/
def settle (s : State) (o : Outcome) (goOn : OpResult) : State × OpResult :=
  match o with
  | .next t => (t, goOn)
  | .fault f => (s, .fault f)
  | .refused r => (s, .refused r)

/-- `step()` with the value it returns (40_engine.md R110). -/
def hostStep (s : State) : State × OpResult := settle s (step s) s.goOnResult

/-- The operations by which the host drives the block (00_scope.md R6, 60_exceptions.md R259). -/
inductive HostOp where
  /-- `load_program(bytes)`. -/
  | loadProgram (bytes : List Byte)
  /-- `step()`. -/
  | step
  /-- `tick()`. -/
  | tick
  /-- `set_key(k, pressed)`. -/
  | setKey (k : Key) (pressed : Bool)
  deriving DecidableEq, Repr

/-- One host operation, performed whole (60_exceptions.md R261). -/
def runHostOp (s : State) : HostOp → State × OpResult
  | .loadProgram bytes => settle s (Machine.loadProgram bytes s) .ok
  | .step => hostStep s
  | .tick => (s.tick, .ok)
  | .setKey k pressed => (s.setKey k pressed, .ok)

/-- A schedule of host operations, one after another: the last state and each operation's result (60_exceptions.md R261). -/
def runSchedule : List HostOp → State → State × List OpResult
  | [], s => (s, [])
  | op :: ops, s => ((runSchedule ops (runHostOp s op).1).1, (runHostOp s op).2 :: (runSchedule ops (runHostOp s op).1).2)

/-- The fault codes, in the source's listing order (60_exceptions.md R240; log 12). -/
def faultCode : Fault → Nat
  | .outOfRangeAddress _ _ => 0
  | .stackOverflow _ => 1
  | .stackUnderflow _ => 2
  | .capacityExceeded _ => 3
  | .unknownOpcode _ => 4

/-! ## Reset under any parameters (10_state.md R35, 70_reset_and_hazards.md R280) -/

/-- INIT_REGS, FONT_TABLE, INIT_MEM, FLAG_ORDER and STACK_DEPTH (00_scope.md R7). -/
structure ResetParams where
  /-- V0..VF. -/
  v : Vector Byte 16
  /-- I. -/
  i : Word
  /-- DT. -/
  dt : Byte
  /-- ST. -/
  st : Byte
  /-- FONT_TABLE, the bytes at 0x000 (80 of them). -/
  font : List Byte
  /-- INIT_MEM, the bytes at 0x050 (4016 of them; where fewer are given the default stands). -/
  mem : List Byte
  /-- FLAG_ORDER and STACK_DEPTH. -/
  cfg : Params
  deriving DecidableEq, Repr

/-- The machine right after reset under given parameters. -/
def State.resetWith (p : ResetParams) : State where
  mem := Memory.writeBytes (Memory.writeBytes [] 0x050 (p.mem.take 4016)) 0x000 (p.font.take 80)
  v := p.v
  i := p.i
  pc := 0x200#16
  stack := []
  dt := p.dt
  st := p.st
  disp := Display.clear
  keys := Vector.replicate 16 false
  mode := .running
  cfg := p.cfg
  draws := 0

/-- The spec's defaults. -/
def defaultReset : ResetParams where
  v := Vector.replicate 16 initByte
  i := initIndex
  dt := initByte
  st := initByte
  font := fontTable
  mem := []
  cfg := defaultParams

end Sys2Proof.Machine
end

