-- ==== Sys2Proof/Safety.lean ====
section
/-! DEFINITION. The terms in which claims speak: the invariant of the state, the parts of the state that an operation leaves
alone, a step that goes on, and the end of a run. -/

namespace Sys2Proof.Machine

/-- The invariant: memory has its canonical form (Machine/Ops.lean), and the call stack holds at most STACK_DEPTH return
addresses (10_state.md R25). -/
def State.Inv (s : State) : Prop := s.mem.wf = true ∧ s.stack.length ≤ s.cfg.stackDepth

/-- The parts of the state (10_state.md). -/
inductive Part where
  | memory | regs | index | pc | stack | delayTimer | soundTimer | display | keypad | mode | cfg | draws
  deriving DecidableEq, Repr

/-- Two states agree on a part. Memory agrees when every byte reads the same. -/
def Agree (s t : State) : Part → Prop
  | .memory => ∀ a, t.mem.byteAt a = s.mem.byteAt a
  | .regs => ∀ r, t.getV r = s.getV r
  | .index => t.i = s.i
  | .pc => t.pc = s.pc
  | .stack => t.stack = s.stack
  | .delayTimer => t.dt = s.dt
  | .soundTimer => t.st = s.st
  | .display => ∀ x y, t.pixel x y = s.pixel x y
  | .keypad => ∀ k, t.isPressed k = s.isPressed k
  | .mode => t.mode = s.mode
  | .cfg => t.cfg = s.cfg
  | .draws => t.draws = s.draws

/-- The frame: `t` agrees with `s` on every part that is not listed. -/
def OnlyChanges (parts : List Part) (s t : State) : Prop := ∀ p, p ∉ parts → Agree s t p

/-- Every register but those of a list is unchanged. -/
def RegsKeptBut (rs : List Reg) (s t : State) : Prop := ∀ r, r ∉ rs → t.getV r = s.getV r

/-- PC has moved by `k`, modulo 65536 (40_engine.md R119). -/
def PcMovesBy (k : Nat) (s t : State) : Prop := t.pc.toNat = (s.pc.toNat + k) % 65536

/-- A skip form's PC: past the next two bytes when the condition holds (40_engine.md R118). -/
def SkipsWhen (c : Prop) (s t : State) : Prop := (c → PcMovesBy 4 s t) ∧ (¬ c → PcMovesBy 2 s t)

/-- V[x] holds the result and VF the flag; where `x = 0xF` the order of the two writes says which one VF holds
(42_alu.md R151). -/
def HoldsFlagAndResult (order : FlagOrder) (t : State) (x : Reg) (flag result : Nat) : Prop :=
  (x ≠ Reg.vf → (t.getV x).toNat = result ∧ (t.getV Reg.vf).toNat = flag) ∧
  (x = Reg.vf → order = .flagThenResult → (t.getV Reg.vf).toNat = result) ∧
  (x = Reg.vf → order = .resultThenFlag → (t.getV Reg.vf).toNat = flag)

/-- The registers an instruction may write: its destinations, and VF where it writes a flag (10_state.md R21, R22). -/
def Instr.mayWrite : Instr → Reg → Prop
  | .ldVxNn x _, r | .addVxNn x _, r | .rnd x _, r => r = x
  | .ldVxVy x _, r | .orVxVy x _, r | .andVxVy x _, r | .xorVxVy x _, r => r = x
  | .addVxVy x _, r | .sub x _, r | .subn x _, r => r = x ∨ r = Reg.vf
  | .shr x, r | .shl x, r => r = x ∨ r = Reg.vf
  | .drw _ _ _, r => r = Reg.vf
  | .ldVxDt x, r | .ldVxK x, r => r = x
  | .ldVxMem x, r => r ≤ x
  | .cls, _ | .ret, _ | .jp _, _ | .call _, _ | .jpV0 _, _ | .ldINnn _, _ => False
  | .seVxNn _ _, _ | .sneVxNn _ _, _ | .seVxVy _ _, _ | .sneVxVy _ _, _ | .skp _, _ | .sknp _, _ => False
  | .ldDtVx _, _ | .ldStVx _, _ | .addIVx _, _ | .ldFVx _, _ | .ldBVx _, _ | .ldMemVx _, _ => False

/-- A sprite of `n` bytes at I, drawn at (Vx, Vy), has a 1 bit over the pixel at column `px`, row `py`, both axes wrapping
(44_display.md R200, R203). -/
def SpriteCovers (s : State) (x y : Reg) (n : RowCount) (px py : Nat) : Prop :=
  ∃ row < n.val, ∃ col < 8, px = ((s.getV x).toNat + col) % 64 ∧ py = ((s.getV y).toNat + row) % 32 ∧
    (s.mem.byteAt (s.i.toNat + row)).getLsbD (7 - col) = true

/-- The value the step returns is Ok or UnknownOpcode: the machine goes on (60_exceptions.md R243). -/
def State.GoesOn (s : State) : Prop := ∃ t, step s = .next t

/-- The engine is at a jump to itself: the word 0x1nnn at address nnn (60_exceptions.md R263, 40_engine.md R127). -/
def State.atSelfJump (s : State) : Bool :=
  decide (s.mode = .running) && decide (s.fetchWord = .ok (0x1000#16 ||| s.pc)) && decide (s.pc.toNat < Config.memSize)

/-- The spec's end of a run: the next step returns a fault other than UnknownOpcode, or the engine is at a jump to itself
(60_exceptions.md R263; log 26). -/
def State.AtEnd (s : State) : Prop := (∃ f, step s = .fault f) ∨ s.atSelfJump = true

/-- The instruction that the next step runs, if it runs one (40_engine.md R110). -/
def State.nextInstr (s : State) : Option Instr :=
  match s.mode with
  | .awaitingKey _ => none
  | .running =>
    match s.fetchWord with
    | .error _ => none
    | .ok w =>
      match decode w with
      | .error _ => none
      | .ok i => some i

end Sys2Proof.Machine
end

