-- ==== Sys2Proof/Certificates/Slice0/Obligations.lean ====
section
/-! DEFINITION. The statements about the model, from the numbered rules of spec/. Nothing is proved here. Each docstring names
the rule a statement formalises; where a clause rests on a decision of the spec or of the model, it names the log entry. -/

open Sys2Proof Sys2Proof.Machine

/-! ## Encoding (spec/30_encoding.md) -/

/-- Words of the spec's own examples decode to the instructions they stand for (R82, R86). -/
def Obligations.ExampleWordsDecode : Prop :=
  decode 0x00E0#16 = .ok .cls ∧ decode 0x00EE#16 = .ok .ret ∧ decode 0x1ABC#16 = .ok (.jp 0xABC#12) ∧
  decode 0x3310#16 = .ok (.seVxNn 3 0x10#8) ∧ decode 0x8014#16 = .ok (.addVxVy 0 1) ∧
  decode 0xD115#16 = .ok (.drw 1 1 5) ∧ decode 0xD125#16 = .ok (.drw 1 2 5) ∧
  decode 0xE3A1#16 = .ok (.sknp 3) ∧ decode 0xFA33#16 = .ok (.ldBVx 10)

/-- The encoder's word of every instruction decodes to that instruction: no operand bit is dropped (R82, R85). -/
def Obligations.DecodingAnEncodingReturnsTheInstruction : Prop :=
  ∀ i, decode (encode i) = .ok i

/-- R88: every value of `y` in 8xy6 and 8xyE decodes to the same instruction, and `y` there is the only don't-care field: two
different words that decode to one instruction are words of a shift and agree outside bits 7 to 4. -/
def Obligations.ShiftsIgnoreYAndNothingElseIsIgnored : Prop :=
  (∀ x y : Reg, decode (BitVec.ofNat 16 (0x8006 + 256 * x.val + 16 * y.val)) = .ok (.shr x) ∧
    decode (BitVec.ofNat 16 (0x800E + 256 * x.val + 16 * y.val)) = .ok (.shl x)) ∧
  (∀ w w' i, decode w = .ok i → decode w' = .ok i → w ≠ w' →
    (∃ x, i = .shr x ∨ i = .shl x) ∧ w &&& 0xFF0F#16 = w' &&& 0xFF0F#16)

/-- The decoder's nested cases (R85) and the masks and matches of the opcode map (R86) say the same: a decoded word fits exactly
one row, the row of its instruction's mnemonic, and a rejected word fits none (R87, R93). Every fixed digit is compared
(log 14). -/
def Obligations.DecoderAgreesWithTheOpcodeMap : Prop :=
  ∀ w, (∀ i, decode w = .ok i → (opcodeMap.filter fun r => r.fits w).map OpcodeRow.mnemonic = [i.mnemonic]) ∧
    (∀ e, decode w = .error e → e = .unknownOpcode w ∧ wordWellFormed w = false)

/-! ## The step (spec/40_engine.md) -/

/-- A step of a running engine runs the instruction that the two bytes at PC decode to, high byte first, PC odd or even, and adds
nothing around it (R112, R114, R116; that PC may be odd is log 8). -/
def Obligations.StepRunsTheInstructionAtPc : Prop :=
  ∀ (s : State) (i : Instr), s.mode = .running → s.pc.toNat + 1 < 4096 →
    decode (BitVec.ofNat 16 ((s.mem.byteAt s.pc.toNat).toNat * 256 + (s.mem.byteAt (s.pc.toNat + 1)).toNat)) = .ok i →
    step s = exec i s ∧ s.nextInstr = some i

/-- A fetch at 4095 or above is a fault with the lowest out-of-range address, and the state is the one before (R113; the address
and the unchanged state are the log's 12 and 10). -/
def Obligations.FetchBeyondMemoryFaults : Prop :=
  ∀ s : State, s.mode = .running → 4095 ≤ s.pc.toNat →
    step s = .fault (.outOfRangeAddress .memory (if 4096 ≤ s.pc.toNat then s.pc.toNat else 4096)) ∧
    hostStep s = (s, .fault (.outOfRangeAddress .memory (if 4096 ≤ s.pc.toNat then s.pc.toNat else 4096)))

/-- R115: an Unknown word does not stop the machine; PC advances by 2, nothing else changes, and the step returns UnknownOpcode
with the word (its place beside the next state is log 11). PC moves modulo 65536 (log 8). -/
def Obligations.UnknownWordAdvancesPcAlone : Prop :=
  ∀ (s : State) (w : Word) (e : DecodeError), s.mode = .running → s.fetchWord = .ok w → decode w = .error e →
    ∃ t, step s = .next t ∧ PcMovesBy 2 s t ∧ OnlyChanges [.pc] s t ∧ hostStep s = (t, .fault (.unknownOpcode w))

/-- While the engine awaits a key, a step with no key pressed changes nothing, and a step that finds one writes the lowest pressed
key to V[x], passes the Fx0A and runs again (R111; the level-sensitive wait is log 19). PC moves modulo 65536 (log 8). -/
def Obligations.WaitingStepEndsAtTheLowestPressedKey : Prop :=
  ∀ (s : State) (x : Reg), s.mode = .awaitingKey x →
    ((∀ k, s.isPressed k = false) → hostStep s = (s, .ok)) ∧
    (∀ k, s.isPressed k = true → (∀ j < k, s.isPressed j = false) →
      ∃ t, hostStep s = (t, .ok) ∧ (t.getV x).toNat = k.val ∧ RegsKeptBut [x] s t ∧ PcMovesBy 2 s t ∧ t.mode = .running ∧
        OnlyChanges [.regs, .pc, .mode] s t)

/-- R125: `is_blocked()` is true exactly in `AwaitingKey(x)`, and a blocked step with no key pressed changes nothing, so that
skipping it and calling it show the same states, however many calls. -/
def Obligations.BlockedExactlyWhileAwaitingKey : Prop :=
  ∀ s : State, (s.isBlocked = true ↔ ∃ x, s.mode = .awaitingKey x) ∧
    (s.isBlocked = true → (∀ k, s.isPressed k = false) →
      ∀ n, runSchedule (List.replicate n .step) s = (s, List.replicate n .ok))

/-- R127: a jump to its own address never advances PC, whatever the number of steps, and each step returns Ok. -/
def Obligations.SelfJumpLoopsWithoutFault : Prop :=
  ∀ (s : State) (nnn : Addr12), s.mode = .running → s.pc.toNat = nnn.toNat →
    s.fetchWord = .ok (BitVec.ofNat 16 (0x1000 + nnn.toNat)) →
    ∀ n, runSchedule (List.replicate n .step) s = (s, List.replicate n .ok)

/-- Every instruction has a meaning at every step: no step is a refusal (60_exceptions.md R249). -/
def Obligations.NoStepIsRefused : Prop :=
  ∀ (s : State) (r : Refusal), step s ≠ .refused r

/-- Which fault a step can return, and from what: the fetch, the five transfers and key skips, CALL and RET, each with the recorded
value of 60_exceptions.md R240 (40_engine.md R122; the values are log 12, the key range is log 17). -/
def Obligations.EachFaultComesFromItsCause : Prop :=
  ∀ (s : State) (f : Fault), step s = .fault f →
    (s.mode = .running ∧ 4095 ≤ s.pc.toNat ∧ f = .outOfRangeAddress .memory (max s.pc.toNat 4096)) ∨
    (∃ i, s.nextInstr = some i ∧
      ((i = .ret ∧ s.stack = [] ∧ f = .stackUnderflow s.pc) ∨
       (∃ nnn, i = .call nnn ∧ s.cfg.stackDepth ≤ s.stack.length ∧ f = .stackOverflow s.pc) ∨
       (∃ x, (i = .skp x ∨ i = .sknp x) ∧ 16 ≤ (s.getV x).toNat ∧ f = .outOfRangeAddress .keypad (s.getV x).toNat) ∨
       (f = .outOfRangeAddress .memory (max s.i.toNat 4096) ∧
         ((∃ x, i = .ldBVx x ∧ 4096 ≤ s.i.toNat + 2) ∨
          (∃ x, (i = .ldMemVx x ∨ i = .ldVxMem x) ∧ 4096 ≤ s.i.toNat + x.val) ∨
          (∃ x y n, i = .drw x y n ∧ 0 < n.val ∧ 4096 ≤ s.i.toNat + n.val - 1)))))

/-- A step that faults leaves the state the host holds, and every later step returns the same fault: there is no halted state
(60_exceptions.md R242, R244; the unchanged state is log 10). -/
def Obligations.FaultedStepRepeats : Prop :=
  ∀ (s : State) (f : Fault), step s = .fault f →
    ∀ n, runSchedule (List.replicate n .step) s = (s, List.replicate n (.fault f))

/-! ## What only some instructions write: whole-machine rules, over every step -/

/-- A step changes DT or ST only through Fx15 or Fx18, and never changes a key (40_engine.md R124, 10_state.md R27, R28, R31). -/
def Obligations.OnlyTimerLoadsWriteTimersAndNoStepWritesKeys : Prop :=
  ∀ s t : State, step s = .next t →
    (t.dt ≠ s.dt → ∃ x, s.nextInstr = some (.ldDtVx x)) ∧ (t.st ≠ s.st → ∃ x, s.nextInstr = some (.ldStVx x)) ∧
    t.keys = s.keys

/-- A step changes a byte of memory only through Fx33 at I to I + 2 or Fx55 at I to I + x (20_memory.md R55). -/
def Obligations.OnlyBcdAndRegisterStoresWriteMemory : Prop :=
  ∀ (s t : State) (a : Nat), s.Inv → step s = .next t → t.mem.byteAt a ≠ s.mem.byteAt a →
    ∃ x, (s.nextInstr = some (.ldBVx x) ∧ s.i.toNat ≤ a ∧ a ≤ s.i.toNat + 2) ∨
      (s.nextInstr = some (.ldMemVx x) ∧ s.i.toNat ≤ a ∧ a ≤ s.i.toNat + x.val)

/-- The display is written only by 00E0 and Dxyn, and no host operation but a step writes it (60_exceptions.md R257). -/
def Obligations.OnlyClearAndDrawWriteTheDisplay : Prop :=
  (∀ s t : State, step s = .next t → t.disp ≠ s.disp →
    s.nextInstr = some .cls ∨ ∃ x y n, s.nextInstr = some (.drw x y n)) ∧
  (∀ (s : State) (op : HostOp), op ≠ .step → (runHostOp s op).1.disp = s.disp)

/-- Only 2nnn pushes and only 00EE pops (10_state.md R25). -/
def Obligations.OnlyCallPushesAndOnlyReturnPops : Prop :=
  ∀ s t : State, step s = .next t → t.stack ≠ s.stack →
    (∃ nnn, s.nextInstr = some (.call nnn) ∧ t.stack = (s.pc + 2#16) :: s.stack) ∨
    (s.nextInstr = some .ret ∧ s.stack = t.pc :: t.stack)

/-- I is written only by Annn, Fx1E and Fx29 (10_state.md R26). -/
def Obligations.OnlyIndexInstructionsWriteI : Prop :=
  ∀ s t : State, step s = .next t → t.i ≠ s.i →
    (∃ nnn, s.nextInstr = some (.ldINnn nnn)) ∨ ∃ x, s.nextInstr = some (.addIVx x) ∨ s.nextInstr = some (.ldFVx x)

/-- The wait is entered only by Fx0A with no key pressed, and left only by a step that finds a key pressed (10_state.md R33,
60_exceptions.md R260; log 19). -/
def Obligations.OnlyKeyWaitChangesTheMode : Prop :=
  ∀ s t : State, step s = .next t → t.mode ≠ s.mode →
    (∃ x, s.nextInstr = some (.ldVxK x) ∧ t.mode = .awaitingKey x ∧ ∀ k, s.isPressed k = false) ∨
    (∃ x k, s.mode = .awaitingKey x ∧ t.mode = .running ∧ s.isPressed k = true)

/-- A step changes a general register only where its instruction names it as a destination, or VF as its flag; a waiting step writes
only its own register (10_state.md R21, R22). -/
def Obligations.RegistersChangeOnlyAsDestinations : Prop :=
  ∀ (s t : State) (r : Reg), step s = .next t → t.getV r ≠ s.getV r →
    (∃ i, s.nextInstr = some i ∧ Instr.mayWrite i r) ∨ s.mode = .awaitingKey r

/-- No instruction reads the sound timer: two states that differ in it alone step to states that differ in it alone, or to the same
fault (10_state.md R28). -/
def Obligations.SoundTimerNeverInfluencesAStep : Prop :=
  ∀ (s : State) (b : Byte),
    (∀ t, step s = .next t → ∃ u, step (s.setSt b) = .next u ∧ OnlyChanges [.soundTimer] t u) ∧
    (∀ f, step s = .fault f → step (s.setSt b) = .fault f)

/-! ## Invariants -/

/-- Every step keeps the invariant: memory's canonical form and the stack's bound (10_state.md R25, 20_memory.md R50). -/
def Obligations.EveryStepKeepsTheInvariant : Prop :=
  ∀ s t : State, s.Inv → step s = .next t → t.Inv

/-- The reset state meets the invariant. -/
def Obligations.ResetMeetsTheInvariant : Prop := State.reset.Inv

/-- Every schedule of host operations keeps the invariant, faults and failed loads included (60_exceptions.md R242, R261). -/
def Obligations.EveryHostScheduleKeepsTheInvariant : Prop :=
  ∀ (ops : List HostOp) (s : State), s.Inv → (runSchedule ops s).1.Inv

/-- Under any parameters, reset installs the font at 0x000 and INIT_MEM at 0x050, gives the registers their parameter values, keeps
FLAG_ORDER and STACK_DEPTH (in the model's own `cfg`, log 1 and 2), starts at 0x200, and meets the invariant (10_state.md R35,
70_reset_and_hazards.md R280 to R282; empty stack, clear display, released keys and Running are the log's 6 and 7). -/
def Obligations.ResetInstallsItsParameters : Prop :=
  ∀ p : ResetParams, p.font.length = 80 → p.mem.length = 4016 →
    (∀ k (h : k < p.font.length), (State.resetWith p).mem.byteAt k = p.font[k]) ∧
    (∀ k (h : k < p.mem.length), (State.resetWith p).mem.byteAt (0x050 + k) = p.mem[k]) ∧
    (∀ r, (State.resetWith p).getV r = p.v.get r) ∧ (State.resetWith p).i = p.i ∧ (State.resetWith p).dt = p.dt ∧
    (State.resetWith p).st = p.st ∧ (State.resetWith p).cfg = p.cfg ∧ (State.resetWith p).pc = 0x200#16 ∧
    (State.resetWith p).stack = [] ∧
    (∀ x y, (State.resetWith p).pixel x y = false) ∧ (∀ k, (State.resetWith p).isPressed k = false) ∧
    (State.resetWith p).mode = .running ∧ (State.resetWith p).Inv

/-- Memories in canonical form that read the same at every address are the same data (the model's own form, log 4). -/
def Obligations.MemoriesThatReadAlikeAreEqual : Prop :=
  ∀ m m' : Memory, m.wf = true → m'.wf = true → (∀ a, m.byteAt a = m'.byteAt a) → m = m'

/-! ## Register loads and the ALU (spec/42_alu.md)

Each statement gives the encoding, says that the instruction completes in every state, and gives its result, its flag and its
frame. -/

/-- R152. PC moves modulo 65536 (log 8). -/
def Obligations.LoadByteWritesTheImmediate : Prop :=
  ∀ (x : Reg) (nn : Byte) (s : State),
    decode (BitVec.ofNat 16 (0x6000 + 256 * x.val + nn.toNat)) = .ok (.ldVxNn x nn) ∧
    ∃ t, exec (.ldVxNn x nn) s = .next t ∧ t.getV x = nn ∧ RegsKeptBut [x] s t ∧ PcMovesBy 2 s t ∧
      OnlyChanges [.regs, .pc] s t

/-- R153: no flag effect. PC moves modulo 65536 (log 8). -/
def Obligations.AddByteWrapsWithoutAFlag : Prop :=
  ∀ (x : Reg) (nn : Byte) (s : State),
    decode (BitVec.ofNat 16 (0x7000 + 256 * x.val + nn.toNat)) = .ok (.addVxNn x nn) ∧
    ∃ t, exec (.addVxNn x nn) s = .next t ∧ (t.getV x).toNat = ((s.getV x).toNat + nn.toNat) % 256 ∧
      RegsKeptBut [x] s t ∧ PcMovesBy 2 s t ∧ OnlyChanges [.regs, .pc] s t

/-- R154. PC moves modulo 65536 (log 8). -/
def Obligations.CopyRegisterCopiesVy : Prop :=
  ∀ (x y : Reg) (s : State),
    decode (BitVec.ofNat 16 (0x8000 + 256 * x.val + 16 * y.val)) = .ok (.ldVxVy x y) ∧
    ∃ t, exec (.ldVxVy x y) s = .next t ∧ t.getV x = s.getV y ∧ RegsKeptBut [x] s t ∧ PcMovesBy 2 s t ∧
      OnlyChanges [.regs, .pc] s t

/-- R155, R156, R157, bit by bit: no flag effect. PC moves modulo 65536 (log 8). -/
def Obligations.BitwiseInstructionsActBitByBit : Prop :=
  ∀ (x y : Reg) (s : State),
    decode (BitVec.ofNat 16 (0x8001 + 256 * x.val + 16 * y.val)) = .ok (.orVxVy x y) ∧
    decode (BitVec.ofNat 16 (0x8002 + 256 * x.val + 16 * y.val)) = .ok (.andVxVy x y) ∧
    decode (BitVec.ofNat 16 (0x8003 + 256 * x.val + 16 * y.val)) = .ok (.xorVxVy x y) ∧
    (∃ t, exec (.orVxVy x y) s = .next t ∧
      (∀ k < 8, (t.getV x).getLsbD k = ((s.getV x).getLsbD k || (s.getV y).getLsbD k)) ∧
      RegsKeptBut [x] s t ∧ PcMovesBy 2 s t ∧ OnlyChanges [.regs, .pc] s t) ∧
    (∃ t, exec (.andVxVy x y) s = .next t ∧
      (∀ k < 8, (t.getV x).getLsbD k = ((s.getV x).getLsbD k && (s.getV y).getLsbD k)) ∧
      RegsKeptBut [x] s t ∧ PcMovesBy 2 s t ∧ OnlyChanges [.regs, .pc] s t) ∧
    (∃ t, exec (.xorVxVy x y) s = .next t ∧
      (∀ k < 8, (t.getV x).getLsbD k = ((s.getV x).getLsbD k ^^ (s.getV y).getLsbD k)) ∧
      RegsKeptBut [x] s t ∧ PcMovesBy 2 s t ∧ OnlyChanges [.regs, .pc] s t)

/-- R158, with R151 under either FLAG_ORDER: VF is the carry out (operands read first, log 13; the order, log 1). PC moves modulo
65536 (log 8). -/
def Obligations.AddRegistersSetsCarry : Prop :=
  ∀ (x y : Reg) (s : State),
    decode (BitVec.ofNat 16 (0x8004 + 256 * x.val + 16 * y.val)) = .ok (.addVxVy x y) ∧
    ∃ t, exec (.addVxVy x y) s = .next t ∧
      HoldsFlagAndResult s.cfg.flagOrder t x (if (s.getV x).toNat + (s.getV y).toNat > 255 then 1 else 0)
        (((s.getV x).toNat + (s.getV y).toNat) % 256) ∧
      RegsKeptBut [x, Reg.vf] s t ∧ PcMovesBy 2 s t ∧ OnlyChanges [.regs, .pc] s t

/-- R159, with R151 under either FLAG_ORDER: VF is 1 when there is no borrow, equality included (log 13, log 1). PC moves modulo
65536 (log 8). -/
def Obligations.SubtractSetsNoBorrow : Prop :=
  ∀ (x y : Reg) (s : State),
    decode (BitVec.ofNat 16 (0x8005 + 256 * x.val + 16 * y.val)) = .ok (.sub x y) ∧
    ∃ t, exec (.sub x y) s = .next t ∧
      HoldsFlagAndResult s.cfg.flagOrder t x (if (s.getV x).toNat ≥ (s.getV y).toNat then 1 else 0)
        (if (s.getV x).toNat ≥ (s.getV y).toNat then (s.getV x).toNat - (s.getV y).toNat
         else (s.getV x).toNat + 256 - (s.getV y).toNat) ∧
      RegsKeptBut [x, Reg.vf] s t ∧ PcMovesBy 2 s t ∧ OnlyChanges [.regs, .pc] s t

/-- R160, with R151 under either FLAG_ORDER: Vx halves, and VF is the old bit 0, whatever `y` (log 1). PC moves modulo 65536 (log
8). -/
def Obligations.ShiftRightShiftsOutBitZero : Prop :=
  ∀ (x y : Reg) (s : State),
    decode (BitVec.ofNat 16 (0x8006 + 256 * x.val + 16 * y.val)) = .ok (.shr x) ∧
    ∃ t, exec (.shr x) s = .next t ∧
      HoldsFlagAndResult s.cfg.flagOrder t x ((s.getV x).toNat % 2) ((s.getV x).toNat / 2) ∧
      RegsKeptBut [x, Reg.vf] s t ∧ PcMovesBy 2 s t ∧ OnlyChanges [.regs, .pc] s t

/-- R161, with R151 under either FLAG_ORDER: Vy minus Vx, VF is 1 when there is no borrow (log 13, log 1). PC moves modulo 65536
(log 8). -/
def Obligations.ReverseSubtractSetsNoBorrow : Prop :=
  ∀ (x y : Reg) (s : State),
    decode (BitVec.ofNat 16 (0x8007 + 256 * x.val + 16 * y.val)) = .ok (.subn x y) ∧
    ∃ t, exec (.subn x y) s = .next t ∧
      HoldsFlagAndResult s.cfg.flagOrder t x (if (s.getV y).toNat ≥ (s.getV x).toNat then 1 else 0)
        (if (s.getV y).toNat ≥ (s.getV x).toNat then (s.getV y).toNat - (s.getV x).toNat
         else (s.getV y).toNat + 256 - (s.getV x).toNat) ∧
      RegsKeptBut [x, Reg.vf] s t ∧ PcMovesBy 2 s t ∧ OnlyChanges [.regs, .pc] s t

/-- R162, with R151 under either FLAG_ORDER: Vx doubles modulo 256, and VF is the old bit 7, whatever `y` (log 1). PC moves modulo
65536 (log 8). -/
def Obligations.ShiftLeftShiftsOutBitSeven : Prop :=
  ∀ (x y : Reg) (s : State),
    decode (BitVec.ofNat 16 (0x800E + 256 * x.val + 16 * y.val)) = .ok (.shl x) ∧
    ∃ t, exec (.shl x) s = .next t ∧
      HoldsFlagAndResult s.cfg.flagOrder t x ((s.getV x).toNat / 128) ((s.getV x).toNat * 2 % 256) ∧
      RegsKeptBut [x, Reg.vf] s t ∧ PcMovesBy 2 s t ∧ OnlyChanges [.regs, .pc] s t

/-- R163: Vx is the step's random byte under the mask, one byte is consumed, and nothing is said of its value (log 20). PC moves
modulo 65536 (log 8). -/
def Obligations.RandomByteIsMaskedAndConsumed : Prop :=
  ∀ (x : Reg) (nn : Byte) (s : State),
    decode (BitVec.ofNat 16 (0xC000 + 256 * x.val + nn.toNat)) = .ok (.rnd x nn) ∧
    ∃ t, exec (.rnd x nn) s = .next t ∧
      (∀ k < 8, (t.getV x).getLsbD k = (nn.getLsbD k && (Config.randomByte s.draws).getLsbD k)) ∧
      t.draws = s.draws + 1 ∧ RegsKeptBut [x] s t ∧ PcMovesBy 2 s t ∧ OnlyChanges [.regs, .pc, .draws] s t

/-! ## Control transfer and skips (spec/41_control_flow.md) -/

/-- R131: the target, odd or not, is not checked and PC is not advanced after it (an odd PC is log 8). -/
def Obligations.JumpGoesToItsAddress : Prop :=
  ∀ (nnn : Addr12) (s : State),
    decode (BitVec.ofNat 16 (0x1000 + nnn.toNat)) = .ok (.jp nnn) ∧
    ∃ t, exec (.jp nnn) s = .next t ∧ t.pc.toNat = nnn.toNat ∧ OnlyChanges [.pc] s t

/-- R132: the address after the 2nnn is pushed and PC goes to nnn, or the stack is full and the call is a StackOverflow. PC moves
modulo 65536 (log 8). -/
def Obligations.CallPushesTheNextAddressOrOverflows : Prop :=
  ∀ (nnn : Addr12) (s : State),
    decode (BitVec.ofNat 16 (0x2000 + nnn.toNat)) = .ok (.call nnn) ∧
    (s.stack.length < s.cfg.stackDepth →
      ∃ t a, exec (.call nnn) s = .next t ∧ t.stack = a :: s.stack ∧ a.toNat = (s.pc.toNat + 2) % 65536 ∧
        t.pc.toNat = nnn.toNat ∧ OnlyChanges [.stack, .pc] s t) ∧
    (s.stack.length = s.cfg.stackDepth → exec (.call nnn) s = .fault (.stackOverflow s.pc))

/-- R130: the newest return address becomes PC, unchanged and unadvanced, or the stack is empty and the return is a
StackUnderflow. -/
def Obligations.ReturnPopsPcOrUnderflows : Prop :=
  decode 0x00EE#16 = .ok .ret ∧
  ∀ s : State,
    (∀ a rest, s.stack = a :: rest →
      ∃ t, exec .ret s = .next t ∧ t.pc = a ∧ t.stack = rest ∧ OnlyChanges [.stack, .pc] s t) ∧
    (s.stack = [] → exec .ret s = .fault (.stackUnderflow s.pc))

/-- A call and the return it reaches leave PC after the call and the stack as it was, and nothing else changes (95_test_vectors.md
W4, 41_control_flow.md R130, R132). PC moves modulo 65536 (log 8). -/
def Obligations.CallThenReturnComesBack : Prop :=
  ∀ (s : State) (nnn : Addr12), s.nextInstr = some (.call nnn) → s.stack.length < s.cfg.stackDepth → nnn.toNat + 1 < 4096 →
    s.mem.byteAt nnn.toNat = 0x00#8 → s.mem.byteAt (nnn.toNat + 1) = 0xEE#8 →
    ∃ t u, step s = .next t ∧ step t = .next u ∧ PcMovesBy 2 s u ∧ OnlyChanges [.pc] s u

/-- R133, R134: the skips on a byte. PC moves modulo 65536 (log 8). -/
def Obligations.ByteSkipsCompareVxWithTheImmediate : Prop :=
  ∀ (x : Reg) (nn : Byte) (s : State),
    decode (BitVec.ofNat 16 (0x3000 + 256 * x.val + nn.toNat)) = .ok (.seVxNn x nn) ∧
    decode (BitVec.ofNat 16 (0x4000 + 256 * x.val + nn.toNat)) = .ok (.sneVxNn x nn) ∧
    (∃ t, exec (.seVxNn x nn) s = .next t ∧ SkipsWhen (s.getV x = nn) s t ∧ OnlyChanges [.pc] s t) ∧
    (∃ t, exec (.sneVxNn x nn) s = .next t ∧ SkipsWhen (s.getV x ≠ nn) s t ∧ OnlyChanges [.pc] s t)

/-- R135, R136: the skips on two registers; a low nibble other than 0 is Unknown (log 14). PC moves modulo 65536 (log 8). -/
def Obligations.RegisterSkipsCompareVxWithVy : Prop :=
  ∀ (x y : Reg) (s : State),
    decode (BitVec.ofNat 16 (0x5000 + 256 * x.val + 16 * y.val)) = .ok (.seVxVy x y) ∧
    decode (BitVec.ofNat 16 (0x9000 + 256 * x.val + 16 * y.val)) = .ok (.sneVxVy x y) ∧
    (∀ n, 0 < n → n < 16 → ∃ e e', decode (BitVec.ofNat 16 (0x5000 + 256 * x.val + 16 * y.val + n)) = .error e ∧
      decode (BitVec.ofNat 16 (0x9000 + 256 * x.val + 16 * y.val + n)) = .error e') ∧
    (∃ t, exec (.seVxVy x y) s = .next t ∧ SkipsWhen (s.getV x = s.getV y) s t ∧ OnlyChanges [.pc] s t) ∧
    (∃ t, exec (.sneVxVy x y) s = .next t ∧ SkipsWhen (s.getV x ≠ s.getV y) s t ∧ OnlyChanges [.pc] s t)

/-- R137: the offset register is V0, and the sum is not reduced (log 8). -/
def Obligations.JumpWithOffsetAddsV0 : Prop :=
  ∀ (nnn : Addr12) (s : State),
    decode (BitVec.ofNat 16 (0xB000 + nnn.toNat)) = .ok (.jpV0 nnn) ∧
    ∃ t, exec (.jpV0 nnn) s = .next t ∧ t.pc.toNat = nnn.toNat + (s.getV Reg.v0).toNat ∧ OnlyChanges [.pc] s t

/-! ## Index register and memory transfers (spec/43_index_memory.md) -/

/-- R180. PC moves modulo 65536 (log 8). -/
def Obligations.LoadIndexWritesTheAddress : Prop :=
  ∀ (nnn : Addr12) (s : State),
    decode (BitVec.ofNat 16 (0xA000 + nnn.toNat)) = .ok (.ldINnn nnn) ∧
    ∃ t, exec (.ldINnn nnn) s = .next t ∧ t.i.toNat = nnn.toNat ∧ PcMovesBy 2 s t ∧ OnlyChanges [.index, .pc] s t

/-- Fx1E adds Vx to I modulo 65536 and never clamps, Fx29 writes Vx times 5 unmasked, neither with a flag (R181, R182; the 16-bit
wrap is log 9, a Vx above 15 is log 18). PC moves modulo 65536 (log 8). -/
def Obligations.IndexAdditionAndGlyphAddress : Prop :=
  ∀ (x : Reg) (s : State),
    decode (BitVec.ofNat 16 (0xF01E + 256 * x.val)) = .ok (.addIVx x) ∧
    decode (BitVec.ofNat 16 (0xF029 + 256 * x.val)) = .ok (.ldFVx x) ∧
    (∃ t, exec (.addIVx x) s = .next t ∧ t.i.toNat = (s.i.toNat + (s.getV x).toNat) % 65536 ∧ PcMovesBy 2 s t ∧
      OnlyChanges [.index, .pc] s t) ∧
    (∃ t, exec (.ldFVx x) s = .next t ∧ t.i.toNat = (s.getV x).toNat * 5 ∧ PcMovesBy 2 s t ∧
      OnlyChanges [.index, .pc] s t)

/-- Fx33 stores the hundreds, tens and ones of Vx at I, I + 1, I + 2, every other byte reads as before, and I is unchanged (R183;
exact addresses, log 9). PC moves modulo 65536 (log 8). -/
def Obligations.BcdStoresThreeDigits : Prop :=
  ∀ (x : Reg) (s : State), decode (BitVec.ofNat 16 (0xF033 + 256 * x.val)) = .ok (.ldBVx x) ∧
    (s.Inv → s.i.toNat + 2 < 4096 → ∃ t, exec (.ldBVx x) s = .next t ∧
      (t.mem.byteAt (s.effectiveAddress 0)).toNat = (s.getV x).toNat / 100 ∧
      (t.mem.byteAt (s.effectiveAddress 1)).toNat = (s.getV x).toNat / 10 % 10 ∧
      (t.mem.byteAt (s.effectiveAddress 2)).toNat = (s.getV x).toNat % 10 ∧
      (∀ a, a < s.effectiveAddress 0 ∨ s.effectiveAddress 2 < a → t.mem.byteAt a = s.mem.byteAt a) ∧
      PcMovesBy 2 s t ∧ OnlyChanges [.memory, .pc] s t)

/-- Fx55 stores V0 to Vx at I, I + 1, ..., every other byte reads as before, and I is unchanged (R184; log 9). PC moves modulo
65536 (log 8). -/
def Obligations.RegisterStoreWritesV0ToVx : Prop :=
  ∀ (x : Reg) (s : State), decode (BitVec.ofNat 16 (0xF055 + 256 * x.val)) = .ok (.ldMemVx x) ∧
    (s.Inv → s.i.toNat + x.val < 4096 → ∃ t, exec (.ldMemVx x) s = .next t ∧
      (∀ r : Reg, r ≤ x → t.mem.byteAt (s.effectiveAddress r.val) = s.getV r) ∧
      (∀ a, a < s.effectiveAddress 0 ∨ s.effectiveAddress x.val < a → t.mem.byteAt a = s.mem.byteAt a) ∧
      PcMovesBy 2 s t ∧ OnlyChanges [.memory, .pc] s t)

/-- Fx65 loads V0 to Vx from I, I + 1, ..., every register above Vx and I are unchanged (R185; log 9). PC moves modulo 65536 (log
8). -/
def Obligations.RegisterLoadReadsV0ToVx : Prop :=
  ∀ (x : Reg) (s : State), decode (BitVec.ofNat 16 (0xF065 + 256 * x.val)) = .ok (.ldVxMem x) ∧
    (s.i.toNat + x.val < 4096 → ∃ t, exec (.ldVxMem x) s = .next t ∧
      (∀ r : Reg, r ≤ x → t.getV r = s.mem.byteAt (s.effectiveAddress r.val)) ∧
      (∀ r : Reg, x < r → t.getV r = s.getV r) ∧ PcMovesBy 2 s t ∧ OnlyChanges [.regs, .pc] s t)

/-- Fx55, then Fx65 with the same x and I, whatever the registers hold in between, gives V0 to Vx back and leaves I unchanged
(95_test_vectors.md W7, R184, R185; exact addresses, log 9). -/
def Obligations.StoreThenLoadRestoresTheRegisters : Prop :=
  ∀ (x : Reg) (s : State) (v : Vector Byte 16), s.Inv → s.i.toNat + x.val < 4096 →
    ∃ t u, exec (.ldMemVx x) s = .next t ∧ exec (.ldVxMem x) (t.setRegs v) = .next u ∧
      (∀ r : Reg, r ≤ x → u.getV r = s.getV r) ∧ (∀ r : Reg, x < r → u.getV r = v.get r) ∧ t.i = s.i ∧ u.i = s.i

/-- A transfer whose last address is 4096 or above is a fault with the lowest out-of-range address, and nothing is read or written
(R186, 44_display.md R202; exact addresses, log 9, the unchanged state, log 10, the address, log 12). -/
def Obligations.TransfersBeyondMemoryFault : Prop :=
  ∀ (x y : Reg) (n : RowCount) (s : State),
    (4096 ≤ s.i.toNat + 2 → exec (.ldBVx x) s = .fault (.outOfRangeAddress .memory (max s.i.toNat 4096))) ∧
    (4096 ≤ s.i.toNat + x.val →
      exec (.ldMemVx x) s = .fault (.outOfRangeAddress .memory (max s.i.toNat 4096)) ∧
      exec (.ldVxMem x) s = .fault (.outOfRangeAddress .memory (max s.i.toNat 4096))) ∧
    (0 < n.val → 4096 ≤ s.i.toNat + n.val - 1 →
      exec (.drw x y n) s = .fault (.outOfRangeAddress .memory (max s.i.toNat 4096)))

/-! ## The display (spec/44_display.md) -/

/-- R201. PC moves modulo 65536 (log 8). -/
def Obligations.ClearUnsetsEveryPixel : Prop :=
  decode 0x00E0#16 = .ok .cls ∧
  ∀ s : State, ∃ t, exec .cls s = .next t ∧ (∀ x < 64, ∀ y < 32, t.pixel x y = false) ∧ PcMovesBy 2 s t ∧
    OnlyChanges [.display, .pc] s t

/-- The drawing loop meets its declarative meaning: a pixel is inverted exactly where a wrapped 1 bit of the sprite lies, VF is 1
when one of those pixels was set and 0 otherwise, and nothing else changes; a sprite of no byte never faults (R202 to R205; the bit
order is log 15, Dxy0 is log 16, exact addresses are log 9, operands read first is log 13). PC moves modulo 65536 (log 8). -/
def Obligations.DrawInvertsExactlyTheCoveredPixels : Prop :=
  ∀ (x y : Reg) (n : RowCount) (s : State),
    decode (BitVec.ofNat 16 (0xD000 + 256 * x.val + 16 * y.val + n.val)) = .ok (.drw x y n) ∧
    (n.val = 0 ∨ s.i.toNat + n.val ≤ 4096 → ∃ t, exec (.drw x y n) s = .next t ∧
      (∀ px < 64, ∀ py < 32, (t.pixel px py ≠ s.pixel px py ↔ SpriteCovers s x y n px py)) ∧
      ((∃ px < 64, ∃ py < 32, s.pixel px py = true ∧ SpriteCovers s x y n px py) → t.getV Reg.vf = 1#8) ∧
      ((¬ ∃ px < 64, ∃ py < 32, s.pixel px py = true ∧ SpriteCovers s x y n px py) → t.getV Reg.vf = 0#8) ∧
      RegsKeptBut [Reg.vf] s t ∧ PcMovesBy 2 s t ∧ OnlyChanges [.regs, .display, .pc] s t)

/-- The same sprite drawn twice at the same place restores every pixel, and the second draw's VF is 1 exactly when a 1 bit lay over
an unset pixel before the first, where neither `x` nor `y` is F or the first draw's VF is the old one (R206; the bit order is log 15,
Dxy0 is log 16, exact addresses are log 9). -/
def Obligations.DrawingTwiceRestoresTheDisplay : Prop :=
  ∀ (x y : Reg) (n : RowCount) (s : State), n.val = 0 ∨ s.i.toNat + n.val ≤ 4096 →
    ∃ t, exec (.drw x y n) s = .next t ∧
      ((x ≠ Reg.vf ∧ y ≠ Reg.vf) ∨ t.getV Reg.vf = s.getV Reg.vf →
        ∃ u, exec (.drw x y n) t = .next u ∧ u.disp = s.disp ∧
          (u.getV Reg.vf = 1#8 ↔ ∃ px < 64, ∃ py < 32, s.pixel px py = false ∧ SpriteCovers s x y n px py))

/-! ## Keypad and timers (spec/45_keypad_timers.md) -/

/-- Ex9E skips when the key that Vx names is pressed, ExA1 when it is not; a Vx of 16 or above names no key and is a fault (R220,
R221, R222; the fault is log 17). PC moves modulo 65536 (log 8). -/
def Obligations.KeySkipsAskTheNamedKey : Prop :=
  ∀ (x : Reg) (s : State),
    decode (BitVec.ofNat 16 (0xE09E + 256 * x.val)) = .ok (.skp x) ∧
    decode (BitVec.ofNat 16 (0xE0A1 + 256 * x.val)) = .ok (.sknp x) ∧
    (∀ k : Key, (s.getV x).toNat = k.val →
      (∃ t, exec (.skp x) s = .next t ∧ SkipsWhen (s.isPressed k = true) s t ∧ OnlyChanges [.pc] s t) ∧
      (∃ t, exec (.sknp x) s = .next t ∧ SkipsWhen (s.isPressed k = false) s t ∧ OnlyChanges [.pc] s t)) ∧
    (16 ≤ (s.getV x).toNat →
      exec (.skp x) s = .fault (.outOfRangeAddress .keypad (s.getV x).toNat) ∧
      exec (.sknp x) s = .fault (.outOfRangeAddress .keypad (s.getV x).toNat))

/-- R223, R225, R226: DT to Vx, Vx to DT, Vx to ST. PC moves modulo 65536 (log 8). -/
def Obligations.TimerMovesCopyTheirByte : Prop :=
  ∀ (x : Reg) (s : State),
    decode (BitVec.ofNat 16 (0xF007 + 256 * x.val)) = .ok (.ldVxDt x) ∧
    decode (BitVec.ofNat 16 (0xF015 + 256 * x.val)) = .ok (.ldDtVx x) ∧
    decode (BitVec.ofNat 16 (0xF018 + 256 * x.val)) = .ok (.ldStVx x) ∧
    (∃ t, exec (.ldVxDt x) s = .next t ∧ t.getV x = s.dt ∧ RegsKeptBut [x] s t ∧ PcMovesBy 2 s t ∧
      OnlyChanges [.regs, .pc] s t) ∧
    (∃ t, exec (.ldDtVx x) s = .next t ∧ t.dt = s.getV x ∧ PcMovesBy 2 s t ∧ OnlyChanges [.delayTimer, .pc] s t) ∧
    (∃ t, exec (.ldStVx x) s = .next t ∧ t.st = s.getV x ∧ t.soundActive = (s.getV x != 0#8) ∧ PcMovesBy 2 s t ∧
      OnlyChanges [.soundTimer, .pc] s t)

/-- Fx0A with a key pressed writes the lowest pressed key and completes at once; with none it enters the wait and PC stays (R224;
the level-sensitive wait is log 19). PC moves modulo 65536 (log 8). -/
def Obligations.KeyWaitTakesTheLowestKeyOrWaits : Prop :=
  ∀ (x : Reg) (s : State),
    decode (BitVec.ofNat 16 (0xF00A + 256 * x.val)) = .ok (.ldVxK x) ∧
    (∀ k : Key, s.isPressed k = true → (∀ j < k, s.isPressed j = false) →
      ∃ t, exec (.ldVxK x) s = .next t ∧ (t.getV x).toNat = k.val ∧ RegsKeptBut [x] s t ∧ PcMovesBy 2 s t ∧
        OnlyChanges [.regs, .pc] s t) ∧
    ((∀ k, s.isPressed k = false) →
      ∃ t, exec (.ldVxK x) s = .next t ∧ t.mode = .awaitingKey x ∧ OnlyChanges [.mode] s t)

/-! ## The host's operations (spec/60_exceptions.md, spec/20_memory.md) -/

/-- R251, R253: a tick counts both timers down by 1, floored at 0, and changes nothing else, in either mode; the sound-active output
is `ST != 0`. -/
def Obligations.TickCountsBothTimersDownToZero : Prop :=
  ∀ s : State, s.tick.dt.toNat = s.dt.toNat - 1 ∧ s.tick.st.toNat = s.st.toNat - 1 ∧
    OnlyChanges [.delayTimer, .soundTimer] s s.tick ∧ (s.soundActive = true ↔ s.st.toNat ≠ 0)

/-- `set_key` writes its key and nothing else, in particular no key wait ends (R254; the 4-bit key index is log 21), and
`first_pressed` is the lowest pressed key or none (R255). -/
def Obligations.SetKeyWritesOneKeyAlone : Prop :=
  ∀ (s : State) (k : Key) (b : Bool),
    (s.setKey k b).isPressed k = b ∧ (∀ j, j ≠ k → (s.setKey k b).isPressed j = s.isPressed j) ∧
    OnlyChanges [.keypad] s (s.setKey k b) ∧
    (s.firstPressed = none ↔ ∀ j, s.isPressed j = false) ∧
    (s.firstPressed = some k ↔ s.isPressed k = true ∧ ∀ j < k, s.isPressed j = false)

/-- `load_program` writes its bytes from 0x200 on and nothing else, or, past 4095, reports CapacityExceeded and changes no state
(20_memory.md R60, R61; log 22). -/
def Obligations.LoadProgramFillsTheProgramAreaOrRefuses : Prop :=
  ∀ (bytes : List Byte) (s : State), s.Inv →
    (bytes.length ≤ 3584 →
      ∃ t, runHostOp s (.loadProgram bytes) = (t, .ok) ∧
        (∀ k (h : k < bytes.length), t.mem.byteAt (0x200 + k) = bytes[k]) ∧
        (∀ a, a < 0x200 ∨ 0x200 + bytes.length ≤ a → t.mem.byteAt a = s.mem.byteAt a) ∧ OnlyChanges [.memory] s t) ∧
    (3584 < bytes.length →
      runHostOp s (.loadProgram bytes) = (s, .fault (.capacityExceeded bytes.length)))
end

