-- ==== Sys2Proof/Laws/Decode.lean ====
section
/-! SUPPORT. The fields of a laid-out word (spec/30_encoding.md R81, R82): each format gives back the fields it was made of,
and every word is its fields laid out. -/

namespace Sys2Proof

section
variable (op : BitVec 4) (x y : Reg) (n : BitVec 4) (nn : Byte) (nnn : Addr12)

@[simp] theorem toFin_nibble : (nibble x).toFin = x := rfl

/-! ## Format A -/

@[simp] theorem opField_formatA : opField (formatA op nnn) = op := by
  ext k hk
  simp [opField, formatA]
  grind

@[simp] theorem nnnField_formatA : nnnField (formatA op nnn) = nnn := by
  ext k hk
  simp [nnnField, formatA]
  grind

/-! ## Formats XK and XS -/

@[simp] theorem opField_formatXK : opField (formatXK op x nn) = op := by
  ext k hk
  simp [opField, formatXK]
  grind

theorem xBits_formatXK : (formatXK op x nn).extractLsb' 8 4 = nibble x := by
  ext k hk
  simp [formatXK]
  grind

@[simp] theorem xField_formatXK : xField (formatXK op x nn) = x := by
  rw [xField, xBits_formatXK, toFin_nibble]

@[simp] theorem nnField_formatXK : nnField (formatXK op x nn) = nn := by
  ext k hk
  simp [nnField, formatXK]
  grind

/-! ## Formats XY and XYN -/

@[simp] theorem opField_formatXYN : opField (formatXYN op x y n) = op := by
  ext k hk
  simp [opField, formatXYN]
  grind

theorem xBits_formatXYN : (formatXYN op x y n).extractLsb' 8 4 = nibble x := by
  ext k hk
  simp [formatXYN]
  grind

theorem yBits_formatXYN : (formatXYN op x y n).extractLsb' 4 4 = nibble y := by
  ext k hk
  simp [formatXYN]
  grind

theorem nBits_formatXYN : (formatXYN op x y n).extractLsb' 0 4 = n := by
  ext k hk
  simp [formatXYN]
  grind

@[simp] theorem xField_formatXYN : xField (formatXYN op x y n) = x := by
  rw [xField, xBits_formatXYN, toFin_nibble]

@[simp] theorem yField_formatXYN : yField (formatXYN op x y n) = y := by
  rw [yField, yBits_formatXYN, toFin_nibble]

@[simp] theorem nField_formatXYN : nField (formatXYN op x y n) = n.toFin := by
  rw [nField, nBits_formatXYN]

end

/-! ## Every word is its fields -/

theorem nibble_xField (w : Word) : nibble (xField w) = w.extractLsb' 8 4 := rfl

theorem nibble_yField (w : Word) : nibble (yField w) = w.extractLsb' 4 4 := rfl

theorem nibble_nField (w : Word) : nibble (nField w) = w.extractLsb' 0 4 := rfl

theorem formatA_fields (w : Word) : formatA (opField w) (nnnField w) = w := by
  ext k hk
  simp [formatA, opField, nnnField]
  grind

theorem formatXK_fields (w : Word) : formatXK (opField w) (xField w) (nnField w) = w := by
  rw [formatXK, nibble_xField]
  ext k hk
  simp only [opField, nnField]
  grind

theorem formatXYN_fields (w : Word) : formatXYN (opField w) (xField w) (yField w) (nibble (nField w)) = w := by
  rw [formatXYN, nibble_xField, nibble_yField, nibble_nField]
  ext k hk
  simp only [opField]
  grind

/-! ## A laid-out word as the number the spec writes, `op << 12 | x << 8 | y << 4 | n` -/

theorem toNat_append_add {m n : Nat} (a : BitVec m) (b : BitVec n) : (a ++ b).toNat = a.toNat * 2 ^ n + b.toNat := by
  rw [BitVec.toNat_append, ← Nat.shiftLeft_add_eq_or_of_lt b.isLt, Nat.shiftLeft_eq]

theorem ofNat_formatA (op : BitVec 4) (nnn : Addr12) :
    BitVec.ofNat 16 (op.toNat * 4096 + nnn.toNat) = formatA op nnn := by
  apply BitVec.eq_of_toNat_eq
  rw [formatA, toNat_append_add, BitVec.toNat_ofNat, Nat.mod_eq_of_lt (by omega)]
  omega

theorem ofNat_formatXK (op : BitVec 4) (x : Reg) (nn : Byte) :
    BitVec.ofNat 16 (op.toNat * 4096 + 256 * x.val + nn.toNat) = formatXK op x nn := by
  apply BitVec.eq_of_toNat_eq
  rw [formatXK, toNat_append_add, toNat_append_add, BitVec.toNat_ofNat, Nat.mod_eq_of_lt (by omega)]
  simp only [nibble, BitVec.toNat_ofFin]
  omega

theorem ofNat_formatXYN (op : BitVec 4) (x y : Reg) (n : BitVec 4) :
    BitVec.ofNat 16 (op.toNat * 4096 + 256 * x.val + 16 * y.val + n.toNat) = formatXYN op x y n := by
  apply BitVec.eq_of_toNat_eq
  rw [formatXYN, toNat_append_add, toNat_append_add, toNat_append_add, BitVec.toNat_ofNat, Nat.mod_eq_of_lt (by omega)]
  simp only [nibble, BitVec.toNat_ofFin]
  omega

/-- A word written as the spec writes it, `base | nnn`. -/
theorem formatA_of_base (base : Nat) (op : BitVec 4) (nnn : Addr12) (h : base = op.toNat * 4096) :
    BitVec.ofNat 16 (base + nnn.toNat) = formatA op nnn := by rw [h, ofNat_formatA]

/-- A word written as the spec writes it, `base | x << 8 | nn`. -/
theorem formatXK_of_base (base : Nat) (op : BitVec 4) (x : Reg) (nn : Byte) (h : base = op.toNat * 4096) :
    BitVec.ofNat 16 (base + 256 * x.val + nn.toNat) = formatXK op x nn := by rw [h, ofNat_formatXK]

/-- A word written as the spec writes it, `base | x << 8`, the selector byte in the base. -/
theorem formatXS_of_base (base : Nat) (op : BitVec 4) (x : Reg) (nn : Byte) (h : base = op.toNat * 4096 + nn.toNat) :
    BitVec.ofNat 16 (base + 256 * x.val) = formatXK op x nn := by
  rw [← ofNat_formatXK]
  congr 1
  omega

/-- A word written as the spec writes it, `base | x << 8 | y << 4`, the selector in the base. -/
theorem formatXY_of_base (base : Nat) (op : BitVec 4) (x y : Reg) (n : BitVec 4) (h : base = op.toNat * 4096 + n.toNat) :
    BitVec.ofNat 16 (base + 256 * x.val + 16 * y.val) = formatXYN op x y n := by
  rw [← ofNat_formatXYN]
  congr 1
  omega

/-- A word written as the spec writes it, `base | x << 8 | y << 4 | n`. -/
theorem formatXYN_of_base (base : Nat) (op : BitVec 4) (x y : Reg) (n : RowCount) (h : base = op.toNat * 4096) :
    BitVec.ofNat 16 (base + 256 * x.val + 16 * y.val + n.val) = formatXYN op x y (nibble n) := by
  rw [h, ← ofNat_formatXYN]
  rfl

theorem wordOfBytes_ofNat (hi lo : Byte) : wordOfBytes hi lo = BitVec.ofNat 16 (hi.toNat * 256 + lo.toNat) := by
  apply BitVec.eq_of_toNat_eq
  rw [wordOfBytes, toNat_append_add, BitVec.toNat_ofNat, Nat.mod_eq_of_lt (by omega)]
  omega

/-! ## A row of the opcode map, nibble by nibble (30_encoding.md R86) -/

theorem and_eq_iff_nibbles (w m p : Word) : w &&& m = p ↔
    opField w &&& opField m = opField p ∧ nibble (xField w) &&& nibble (xField m) = nibble (xField p) ∧
    nibble (yField w) &&& nibble (yField m) = nibble (yField p) ∧
    nibble (nField w) &&& nibble (nField m) = nibble (nField p) := by
  simp only [nibble_xField, nibble_yField, nibble_nField, opField, ← BitVec.extractLsb'_and]
  constructor
  · rintro rfl
    simp
  · rintro ⟨h1, h2, h3, h4⟩
    have e : ∀ v : Word, v = v.extractLsb' 12 4 ++ v.extractLsb' 8 4 ++ v.extractLsb' 4 4 ++ v.extractLsb' 0 4 :=
      fun v => (formatXYN_fields v).symm
    rw [e (w &&& m), h1, h2, h3, h4, ← e]

theorem OpcodeRow.fits_iff (r : OpcodeRow) (w : Word) : r.fits w = true ↔
    opField w &&& opField r.mask = opField r.pat ∧
    nibble (xField w) &&& nibble (xField r.mask) = nibble (xField r.pat) ∧
    nibble (yField w) &&& nibble (yField r.mask) = nibble (yField r.pat) ∧
    nibble (nField w) &&& nibble (nField r.mask) = nibble (nField r.pat) := by
  rw [OpcodeRow.fits, beq_iff_eq, and_eq_iff_nibbles]

/-! ## The bytes of a word (20_memory.md R52) -/

@[simp] theorem wordOfBytes_bytes (w : Word) : wordOfBytes (highByte w) (lowByte w) = w := by
  ext k hk
  simp [wordOfBytes, highByte, lowByte]
  grind

@[simp] theorem highByte_wordOfBytes (hi lo : Byte) : highByte (wordOfBytes hi lo) = hi := by
  ext k hk
  simp [wordOfBytes, highByte]
  grind

@[simp] theorem lowByte_wordOfBytes (hi lo : Byte) : lowByte (wordOfBytes hi lo) = lo := by
  ext k hk
  simp [wordOfBytes, lowByte]
  grind

/-- The decoder of bytes is the decoder of the word they form. -/
theorem decodeBytes_two (hi lo : Byte) (rest : List Byte) : decodeBytes (hi :: lo :: rest) =
    match decode (wordOfBytes hi lo) with
    | .ok i => .ok (i, rest)
    | .error e => .error e := rfl

theorem decodeTableWord_eq (nbits w : Nat) : decodeTableWord nbits w = (decode (tableWord nbits w)).toOption := by
  simp only [decodeTableWord, decodeBytes_two, wordOfBytes_bytes]
  cases decode (tableWord nbits w) <;> rfl

end Sys2Proof
end

