-- ==== Sys2Proof/Laws/Memory.lean ====
section
/-! SUPPORT. The laws of memory (spec/20_memory.md R62): a read after a write, and the canonical form that every operation
keeps. -/

namespace Sys2Proof.Machine

/-! ## Reading the canonical list -/

theorem Memory.wfFrom_cons {lo : Nat} {c : Host.Cell} {m : Memory} :
    Memory.wfFrom lo (c :: m) = true ↔
      lo ≤ c.1 ∧ c.1 < Config.memSize ∧ c.2 ≠ Memory.unlisted c.1 ∧ Memory.wfFrom (c.1 + 1) m = true := by
  simp [Memory.wfFrom, and_assoc]

theorem Memory.wfFrom_mono {lo lo' : Nat} {m : Memory} (h : Memory.wfFrom lo m = true) (hl : lo' ≤ lo) :
    Memory.wfFrom lo' m = true := by
  cases m with
  | nil => rfl
  | cons c m =>
    rw [Memory.wfFrom_cons] at h ⊢
    exact ⟨hl.trans h.1, h.2⟩

/-- An address below every listed one reads as unlisted. -/
theorem Memory.byteAt_below {lo a : Nat} {m : Memory} (h : Memory.wfFrom lo m = true) (ha : a < lo) :
    m.byteAt a = Memory.unlisted a := by
  cases m with
  | nil => rfl
  | cons c m =>
    have := (Memory.wfFrom_cons.1 h).1
    simp [Memory.byteAt, show a < c.1 by omega]

/-- A cell, or no cell, in front of addresses above it. -/
theorem Memory.byteAt_cellOf_append {a : Nat} (b : Byte) {m : Memory} (h : Memory.wfFrom (a + 1) m = true) (a' : Nat) :
    (Memory.cellOf a b ++ m).byteAt a' = if a' = a then b else m.byteAt a' := by
  unfold Memory.cellOf
  split
  · next hb =>
    split
    · next e => subst e; rw [List.nil_append, Memory.byteAt_below h (by omega), hb]
    · rfl
  · simp only [List.cons_append, List.nil_append, Memory.byteAt]
    split
    · next hlt => rw [if_neg (by omega), Memory.byteAt_below h (by omega)]
    · rfl

theorem Memory.wfFrom_cellOf_append {lo a : Nat} (b : Byte) {m : Memory} (h : Memory.wfFrom (a + 1) m = true)
    (hlo : lo ≤ a) (ha : a < Config.memSize) : Memory.wfFrom lo (Memory.cellOf a b ++ m) = true := by
  unfold Memory.cellOf
  split
  · exact Memory.wfFrom_mono h (by omega)
  · next hb => exact Memory.wfFrom_cons.2 ⟨hlo, ha, hb, h⟩

/-! ## Writing one byte -/

theorem Memory.byteAt_insert {lo : Nat} {m : Memory} (h : Memory.wfFrom lo m = true) (a : Nat) (b : Byte) (a' : Nat) :
    (m.insert a b).byteAt a' = if a' = a then b else m.byteAt a' := by
  induction m generalizing lo with
  | nil => simpa [Memory.insert] using Memory.byteAt_cellOf_append b (m := []) rfl a'
  | cons c m ih =>
    obtain ⟨h1, h2, h3, h4⟩ := Memory.wfFrom_cons.1 h
    unfold Memory.insert
    split
    · next hlt =>
      exact Memory.byteAt_cellOf_append b (Memory.wfFrom_cons.2 ⟨hlt, h2, h3, h4⟩) a'
    · split
      · next hge heq =>
        subst heq
        rw [Memory.byteAt_cellOf_append b h4]
        split
        · rfl
        · next hne =>
          simp only [Memory.byteAt]
          split
          · next hlt => exact Memory.byteAt_below h4 (by omega)
          · rfl
      · next hge hne =>
        simp only [Memory.byteAt, ih h4]
        split
        · next hlt => rw [if_neg (by omega)]
        · split
          · next e => rw [if_neg (by omega)]
          · rfl

theorem Memory.wfFrom_insert {lo : Nat} {m : Memory} (h : Memory.wfFrom lo m = true) {a : Nat} (b : Byte) (hlo : lo ≤ a)
    (ha : a < Config.memSize) : Memory.wfFrom lo (m.insert a b) = true := by
  induction m generalizing lo with
  | nil => simpa [Memory.insert] using Memory.wfFrom_cellOf_append b (m := []) rfl hlo ha
  | cons c m ih =>
    obtain ⟨h1, h2, h3, h4⟩ := Memory.wfFrom_cons.1 h
    unfold Memory.insert
    split
    · next hlt => exact Memory.wfFrom_cellOf_append b (Memory.wfFrom_cons.2 ⟨hlt, h2, h3, h4⟩) hlo ha
    · split
      · next hge heq => exact Memory.wfFrom_cellOf_append b (heq ▸ h4) hlo ha
      · next hge hne => exact Memory.wfFrom_cons.2 ⟨h1, h2, h3, ih h4 (by omega)⟩

/-- A write keeps the canonical form. -/
theorem Memory.wf_write {m : Memory} (h : m.wf = true) (a : Nat) (b : Byte) : (m.write a b).wf = true := by
  unfold Memory.write
  split
  · next ha => exact Memory.wfFrom_insert h b (Nat.zero_le a) ha
  · exact h

/-- A read after a write, at the written address and at any other. -/
theorem Memory.byteAt_write {m : Memory} (h : m.wf = true) {a : Nat} (ha : a < Config.memSize) (b : Byte) (a' : Nat) :
    (m.write a b).byteAt a' = if a' = a then b else m.byteAt a' := by
  unfold Memory.write
  rw [if_pos ha]
  exact Memory.byteAt_insert h a b a'

/-! ## Writing a run of bytes -/

/-- A run of writes keeps the canonical form. -/
theorem Memory.wf_writeBytes {m : Memory} (h : m.wf = true) (a : Nat) (bs : List Byte) :
    (m.writeBytes a bs).wf = true := by
  induction bs generalizing m a with
  | nil => exact h
  | cons b bs ih => exact ih (Memory.wf_write h a b) (a + 1)

/-- A byte outside the run is unchanged. -/
theorem Memory.byteAt_writeBytes_outside {m : Memory} (h : m.wf = true) {a : Nat} {bs : List Byte}
    (hr : a + bs.length ≤ Config.memSize) {a' : Nat} (ha' : a' < a ∨ a + bs.length ≤ a') :
    (m.writeBytes a bs).byteAt a' = m.byteAt a' := by
  induction bs generalizing m a with
  | nil => rfl
  | cons b bs ih =>
    rw [List.length_cons] at hr ha'
    rw [Memory.writeBytes, ih (Memory.wf_write h a b) (by omega) (by omega), Memory.byteAt_write h (by omega),
      if_neg (by omega)]

/-- Byte `k` of the run is at `a + k`. -/
theorem Memory.byteAt_writeBytes_inside {m : Memory} (h : m.wf = true) {a : Nat} {bs : List Byte}
    (hr : a + bs.length ≤ Config.memSize) {k : Nat} (hk : k < bs.length) :
    (m.writeBytes a bs).byteAt (a + k) = bs[k] := by
  induction bs generalizing m a k with
  | nil => exact absurd hk (Nat.not_lt_zero k)
  | cons b bs ih =>
    rw [List.length_cons] at hr hk
    cases k with
    | zero =>
      rw [Memory.writeBytes, Memory.byteAt_writeBytes_outside (Memory.wf_write h a b) (by omega) (by omega),
        Memory.byteAt_write h (by omega), Nat.add_zero, if_pos rfl, List.getElem_cons_zero]
    | succ k =>
      have := ih (m := m.write a b) (a := a + 1) (k := k) (Memory.wf_write h a b) (by omega) (by omega)
      rw [Memory.writeBytes, List.getElem_cons_succ, ← this, show a + (k + 1) = a + 1 + k by omega]

@[simp] theorem Memory.length_readBytes (m : Memory) (a n : Nat) : (m.readBytes a n).length = n := by
  simp [Memory.readBytes]

theorem Memory.getElem_readBytes (m : Memory) (a n k : Nat) (hk : k < (m.readBytes a n).length) :
    (m.readBytes a n)[k] = m.byteAt (a + k) := by
  simp [Memory.readBytes]

end Sys2Proof.Machine
end

