-- ==== Sys2Proof/Laws/Registers.lean ====
section
/-! SUPPORT. Reads of a register after a write, the program counter's sums as numbers, and the flag-and-result write. -/

namespace Sys2Proof.Machine

@[simp] theorem State.getV_setV_same (s : State) (x : Reg) (b : Byte) : (s.setV x b).getV x = b := by
  simp [State.getV, State.setV, Vector.get_eq_getElem]

theorem State.getV_setV_other (s : State) {x r : Reg} (b : Byte) (h : r ≠ x) : (s.setV x b).getV r = s.getV r := by
  have h' : x.val ≠ r.val := fun e => h (Fin.ext e.symm)
  simp only [State.getV, State.setV, Vector.get_eq_getElem]
  exact Vector.getElem_set_ne _ _ h'

theorem State.getV_setV (s : State) (x r : Reg) (b : Byte) :
    (s.setV x b).getV r = if r = x then b else s.getV r := by
  split
  · next h => subst h; simp
  · next h => exact s.getV_setV_other b h

@[simp] theorem State.getV_setRegs (s : State) (v : Vector Byte 16) (r : Reg) : (s.setRegs v).getV r = v.get r := rfl

theorem State.isPressed_setKey (s : State) (k j : Key) (b : Bool) :
    (s.setKey k b).isPressed j = if j = k then b else s.isPressed j := by
  simp only [State.isPressed, State.setKey, Vector.get_eq_getElem, Vector.getElem_set]
  split
  · next h => rw [if_pos (Fin.ext h.symm)]
  · next h => rw [if_neg fun e => h (congrArg Fin.val e.symm)]

/-- Two register files that read the same are the same. -/
theorem regs_ext {v w : Vector Byte 16} (h : ∀ r : Reg, v.get r = w.get r) : v = w := by
  ext k hk : 1
  simpa [Vector.get_eq_getElem] using h ⟨k, hk⟩

theorem State.getV_takeKey (s : State) (x r : Reg) (k : Key) :
    (s.takeKey x k).getV r = if r = x then keyByte k else s.getV r := s.getV_setV x r (keyByte k)

theorem pc_add_two (w : Word) : (w + 2#16).toNat = (w.toNat + 2) % 65536 := by simp [BitVec.toNat_add]

theorem pc_add_four (w : Word) : (w + 4#16).toNat = (w.toNat + 4) % 65536 := by simp [BitVec.toNat_add]

@[simp] theorem flagByte_toNat (b : Bool) : (flagByte b).toNat = if b then 1 else 0 := by cases b <;> rfl

/-! ## The flag-and-result write (42_alu.md R151) -/

section
variable (s : State) (x : Reg) (flag result : Byte)

/-- Everything the write does: it changes registers alone. -/
theorem State.writeFlagAndResult_eq :
    ∃ v, s.writeFlagAndResult x flag result = s.setRegs v ∧
      ∀ r, v.get r =
        if r = Reg.vf ∧ s.cfg.flagOrder = .resultThenFlag then flag
        else if r = x then result else if r = Reg.vf then flag else s.getV r := by
  unfold State.writeFlagAndResult
  cases h : s.cfg.flagOrder with
  | flagThenResult =>
    refine ⟨((s.setV Reg.vf flag).setV x result).v, rfl, fun r => ?_⟩
    change ((s.setV Reg.vf flag).setV x result).getV r = _
    rw [State.getV_setV, State.getV_setV]
    simp
  | resultThenFlag =>
    refine ⟨((s.setV x result).setV Reg.vf flag).v, rfl, fun r => ?_⟩
    change ((s.setV x result).setV Reg.vf flag).getV r = _
    rw [State.getV_setV, State.getV_setV]
    by_cases hr : r = Reg.vf <;> simp [hr]

@[simp] theorem State.writeFlagAndResult_mem : (s.writeFlagAndResult x flag result).mem = s.mem := by
  obtain ⟨v, e, -⟩ := s.writeFlagAndResult_eq x flag result
  rw [e, State.setRegs_mem]

@[simp] theorem State.writeFlagAndResult_i : (s.writeFlagAndResult x flag result).i = s.i := by
  obtain ⟨v, e, -⟩ := s.writeFlagAndResult_eq x flag result
  rw [e, State.setRegs_i]

@[simp] theorem State.writeFlagAndResult_pc : (s.writeFlagAndResult x flag result).pc = s.pc := by
  obtain ⟨v, e, -⟩ := s.writeFlagAndResult_eq x flag result
  rw [e, State.setRegs_pc]

@[simp] theorem State.writeFlagAndResult_stack : (s.writeFlagAndResult x flag result).stack = s.stack := by
  obtain ⟨v, e, -⟩ := s.writeFlagAndResult_eq x flag result
  rw [e, State.setRegs_stack]

@[simp] theorem State.writeFlagAndResult_dt : (s.writeFlagAndResult x flag result).dt = s.dt := by
  obtain ⟨v, e, -⟩ := s.writeFlagAndResult_eq x flag result
  rw [e, State.setRegs_dt]

@[simp] theorem State.writeFlagAndResult_st : (s.writeFlagAndResult x flag result).st = s.st := by
  obtain ⟨v, e, -⟩ := s.writeFlagAndResult_eq x flag result
  rw [e, State.setRegs_st]

@[simp] theorem State.writeFlagAndResult_disp : (s.writeFlagAndResult x flag result).disp = s.disp := by
  obtain ⟨v, e, -⟩ := s.writeFlagAndResult_eq x flag result
  rw [e, State.setRegs_disp]

@[simp] theorem State.writeFlagAndResult_keys : (s.writeFlagAndResult x flag result).keys = s.keys := by
  obtain ⟨v, e, -⟩ := s.writeFlagAndResult_eq x flag result
  rw [e, State.setRegs_keys]

@[simp] theorem State.writeFlagAndResult_mode : (s.writeFlagAndResult x flag result).mode = s.mode := by
  obtain ⟨v, e, -⟩ := s.writeFlagAndResult_eq x flag result
  rw [e, State.setRegs_mode]

@[simp] theorem State.writeFlagAndResult_cfg : (s.writeFlagAndResult x flag result).cfg = s.cfg := by
  obtain ⟨v, e, -⟩ := s.writeFlagAndResult_eq x flag result
  rw [e, State.setRegs_cfg]

@[simp] theorem State.writeFlagAndResult_draws : (s.writeFlagAndResult x flag result).draws = s.draws := by
  obtain ⟨v, e, -⟩ := s.writeFlagAndResult_eq x flag result
  rw [e, State.setRegs_draws]

/-- A register that is neither the destination nor VF is unchanged. -/
theorem State.writeFlagAndResult_getV_other {r : Reg} (h : r ≠ x) (hf : r ≠ Reg.vf) :
    (s.writeFlagAndResult x flag result).getV r = s.getV r := by
  obtain ⟨v, e, hv⟩ := s.writeFlagAndResult_eq x flag result
  rw [e, State.getV_setRegs, hv]
  simp [h, hf]

end

end Sys2Proof.Machine
end

