-- ==== Sys2Proof/Laws/Display.lean ====
section
/-! SUPPORT. The display: a pixel after a pixel write, and what one bit, one row and one whole sprite do to the pixels and to the
collision flag (spec/44_display.md R202 to R204). -/

namespace Sys2Proof.Machine

@[simp] theorem Display.pixel_clear (x y : Nat) : Display.clear.pixel x y = false := by
  simp [Display.clear, Display.pixel]

theorem Display.pixel_setPixel (d : Display) (x y : Nat) (b : Bool) (px py : Nat) :
    (d.setPixel x y b).pixel px py = if px % 64 = x % 64 ∧ py % 32 = y % 32 then b else d.pixel px py := by
  simp only [Display.pixel, Display.setPixel]
  by_cases hy : py % 32 = y % 32
  · by_cases hx : px % 64 = x % 64
    · simp [hx, hy]
    · simp [hx, hy, Vector.getElem_set_ne, Ne.symm hx]
  · simp [hy, Vector.getElem_set_ne, Ne.symm hy]

/-- Two displays whose pixels agree are the same. -/
theorem Display.ext_pixel {d e : Display} (h : ∀ x y, d.pixel x y = e.pixel x y) : d = e := by
  ext y hy x hx
  have := h x y
  simpa [Display.pixel, Nat.mod_eq_of_lt hy, Nat.mod_eq_of_lt hx] using this

/-- One sprite bit inverts its pixel exactly when it is a 1 bit. -/
theorem pixel_drawBit (cx cy : Nat) (b : Byte) (acc : DrawState) (col px py : Nat) :
    (drawBit cx cy b acc col).1.pixel px py =
      (acc.1.pixel px py ^^ (spriteBit b col && decide (px % 64 = (cx + col) % 64 ∧ py % 32 = cy % 32))) := by
  unfold drawBit
  by_cases hb : spriteBit b col = true
  · rw [if_pos hb, Display.pixel_setPixel, hb]
    by_cases hp : px % 64 = (cx + col) % 64 ∧ py % 32 = cy % 32
    · have : acc.1.pixel (cx + col) cy = acc.1.pixel px py := by simp only [Display.pixel, hp]
      simp [hp, this]
    · simp [hp]
  · simp [hb]

/-- One sprite bit sets the collision flag exactly when it is a 1 bit over a set pixel. -/
theorem collision_drawBit (cx cy : Nat) (b : Byte) (acc : DrawState) (col : Nat) :
    (drawBit cx cy b acc col).2 = (acc.2 || (spriteBit b col && acc.1.pixel (cx + col) cy)) := by
  unfold drawBit
  by_cases hb : spriteBit b col = true
  · rw [if_pos hb, hb, Bool.true_and]
  · simp [hb]

/-- A run of columns, no column twice: exactly the pixels under its 1 bits are inverted, and a collision is a 1 bit over a pixel
set before. -/
theorem drawBit_foldl (cx cy : Nat) (b : Byte) (cols : List Nat) (hn : cols.Nodup) (h8 : ∀ c ∈ cols, c < 8)
    (acc : DrawState) :
    (∀ px py, (cols.foldl (drawBit cx cy b) acc).1.pixel px py = (acc.1.pixel px py ^^
      decide (∃ c ∈ cols, spriteBit b c = true ∧ px % 64 = (cx + c) % 64 ∧ py % 32 = cy % 32))) ∧
    ((cols.foldl (drawBit cx cy b) acc).2 =
      (acc.2 || decide (∃ c ∈ cols, spriteBit b c = true ∧ acc.1.pixel (cx + c) cy = true))) := by
  induction cols generalizing acc with
  | nil => simp
  | cons c cols ih =>
    obtain ⟨hc, hn'⟩ := List.nodup_cons.1 hn
    obtain ⟨i1, i2⟩ := ih hn' (fun c hc => h8 c (List.mem_cons_of_mem _ hc)) (drawBit cx cy b acc c)
    have hc8 := h8 c (by simp)
    have ne : ∀ c' ∈ cols, (cx + c') % 64 ≠ (cx + c) % 64 := by
      intro c' h' e
      have := h8 c' (List.mem_cons_of_mem _ h')
      have : c' ≠ c := fun e => hc (e ▸ h')
      omega
    refine ⟨fun px py => ?_, ?_⟩
    · rw [List.foldl_cons, i1, pixel_drawBit, Bool.xor_assoc]
      congr 1
      by_cases hx : spriteBit b c = true ∧ px % 64 = (cx + c) % 64 ∧ py % 32 = cy % 32
      · have : ¬ ∃ c ∈ cols, spriteBit b c = true ∧ px % 64 = (cx + c) % 64 ∧ py % 32 = cy % 32 := by
          rintro ⟨c', h', -, h2, -⟩
          exact ne c' h' (h2.symm.trans hx.2.1)
        rw [decide_eq_false this]
        simp [hx]
      · have e : (spriteBit b c && decide (px % 64 = (cx + c) % 64 ∧ py % 32 = cy % 32)) = false := by
          simpa using hx
        rw [e]
        simp only [List.mem_cons, exists_eq_or_imp, hx, false_or, Bool.false_xor]
    · rw [List.foldl_cons, i2, collision_drawBit, Bool.or_assoc]
      congr 1
      have : ∀ c' ∈ cols, (drawBit cx cy b acc c).1.pixel (cx + c') cy = acc.1.pixel (cx + c') cy := by
        intro c' h'
        rw [pixel_drawBit]; simp [ne c' h']
      rw [Bool.eq_iff_iff]
      simp only [List.mem_cons, exists_eq_or_imp, Bool.or_eq_true, Bool.and_eq_true, decide_eq_true_eq]
      apply or_congr_right
      apply exists_congr
      intro c'
      apply and_congr_right
      intro h'
      rw [this c' h']

/-- Bytes `bs` drawn with their first bit at (`cx`, `cy`) have a 1 bit over a pixel. -/
def Covered (cx cy : Nat) (bs : List Byte) (px py : Nat) : Prop :=
  ∃ row, ∃ h : row < bs.length, ∃ c < 8, spriteBit bs[row] c = true ∧ px % 64 = (cx + c) % 64 ∧ py % 32 = (cy + row) % 32

/-- A sprite of at most 32 rows inverts exactly the pixels it covers, and collides exactly where a covered pixel was set. -/
theorem drawRows_spec (cx : Nat) (bs : List Byte) (cy : Nat) (hl : bs.length ≤ 32) (acc : DrawState) :
    (∀ px py, ((drawRows cx cy bs acc).1.pixel px py ≠ acc.1.pixel px py ↔ Covered cx cy bs px py)) ∧
    ((drawRows cx cy bs acc).2 = true ↔ acc.2 = true ∨
      ∃ row, ∃ h : row < bs.length, ∃ c < 8, spriteBit bs[row] c = true ∧ acc.1.pixel (cx + c) (cy + row) = true) := by
  induction bs generalizing acc cy with
  | nil => simp [drawRows, Covered]
  | cons b bs ih =>
    rw [List.length_cons] at hl
    obtain ⟨i1, i2⟩ := ih (cy + 1) (by omega) (drawRow cx cy b acc)
    obtain ⟨r1, r2⟩ := drawBit_foldl cx cy b (List.range 8) List.nodup_range (by simp) acc
    change ∀ px py, (drawRow cx cy b acc).1.pixel px py = _ at r1
    change (drawRow cx cy b acc).2 = _ at r2
    refine ⟨fun px py => ?_, ?_⟩
    · rw [drawRows]
      have split : Covered cx cy (b :: bs) px py ↔
          (∃ c < 8, spriteBit b c = true ∧ px % 64 = (cx + c) % 64 ∧ py % 32 = cy % 32) ∨
          Covered cx (cy + 1) bs px py := by
        constructor
        · rintro ⟨row, h, c, hc, h1, h2, h3⟩
          cases row with
          | zero => exact .inl ⟨c, hc, h1, h2, h3⟩
          | succ r => exact .inr ⟨r, by simpa using h, c, hc, by simpa using h1, h2, by rw [h3]; congr 1; omega⟩
        · rintro (⟨c, hc, h1, h2, h3⟩ | ⟨r, h, c, hc, h1, h2, h3⟩)
          · exact ⟨0, by simp, c, hc, h1, h2, h3⟩
          · exact ⟨r + 1, by simpa using h, c, hc, by simpa using h1, h2, by rw [h3]; congr 1; omega⟩
      have disj : (∃ c < 8, spriteBit b c = true ∧ px % 64 = (cx + c) % 64 ∧ py % 32 = cy % 32) →
          ¬ Covered cx (cy + 1) bs px py := by
        rintro ⟨c, -, -, -, h3⟩ ⟨r, h, c', -, -, -, h3'⟩
        omega
      rw [split, ← i1]
      have := r1 px py
      simp only [List.mem_range] at this
      by_cases hh : ∃ c < 8, spriteBit b c = true ∧ px % 64 = (cx + c) % 64 ∧ py % 32 = cy % 32
      · have h0 := mt (i1 px py).1 (disj hh)
        rw [decide_eq_true hh] at this
        rw [ne_eq, not_not] at h0
        simp only [hh, true_or, iff_true]
        rw [h0, this]; simp
      · rw [decide_eq_false hh] at this
        simp only [hh, false_or]
        rw [this, Bool.xor_false]
    · rw [drawRows, i2, r2]
      have same : ∀ row, row < bs.length → ∀ c,
          (drawRow cx cy b acc).1.pixel (cx + c) (cy + 1 + row) =
            acc.1.pixel (cx + c) (cy + 1 + row) := by
        intro row h c
        rw [r1]
        have : ¬ ∃ c_1 ∈ List.range 8, spriteBit b c_1 = true ∧
            (cx + c) % 64 = (cx + c_1) % 64 ∧ (cy + 1 + row) % 32 = cy % 32 := by
          rintro ⟨_, -, -, -, h3⟩; omega
        rw [decide_eq_false this, Bool.xor_false]
      simp only [Bool.or_eq_true, decide_eq_true_eq, List.mem_range, or_assoc]
      apply or_congr_right
      constructor
      · rintro (⟨c, hc, h1, h2⟩ | ⟨r, h, c, hc, h1, h2⟩)
        · exact ⟨0, by simp, c, hc, h1, h2⟩
        · rw [same r h c] at h2
          exact ⟨r + 1, by simpa using h, c, hc, by simpa using h1, by rw [← h2]; congr 1; omega⟩
      · rintro ⟨row, h, c, hc, h1, h2⟩
        cases row with
        | zero => exact .inl ⟨c, hc, h1, h2⟩
        | succ r =>
          refine .inr ⟨r, by simpa using h, c, hc, by simpa using h1, ?_⟩
          rw [same r (by simpa using h) c, ← h2]; congr 1; omega

/-- For the sprite at I, `Covered` is the `SpriteCovers` of Safety.lean. -/
theorem covered_sprite (s : State) (x y : Reg) (n : RowCount) (px py) (hx : px < 64) (hy : py < 32) :
    Covered (s.getV x).toNat (s.getV y).toNat (s.sprite n) px py ↔
      SpriteCovers s x y n px py := by
  constructor
  · rintro ⟨r, h, c, hc, h1, h2, h3⟩
    have hr : r < n.val := by simpa [State.sprite] using h
    simp only [State.sprite, Memory.getElem_readBytes] at h1
    exact ⟨r, hr, c, hc, by omega, by omega, h1⟩
  · rintro ⟨r, hr, c, hc, h2, h3, h1⟩
    have h : r < (s.sprite n).length := by simpa [State.sprite] using hr
    refine ⟨r, h, c, hc, ?_, by omega, by omega⟩
    simp only [State.sprite, Memory.getElem_readBytes]; exact h1

end Sys2Proof.Machine
end

