-- ==== Sys2Proof/Laws/Ops.lean ====
section
/-! SUPPORT. What each shared operation can do, said once: the transfer, the key skip, the fetch, the key scan, the step. -/

namespace Sys2Proof.Machine

/-! ## Transfers (43_index_memory.md R186) -/

section
variable {s t : State} {n : Nat}

theorem State.transferOutOfRange_iff : s.transferOutOfRange n = true ↔ 0 < n ∧ 4096 < s.i.toNat + n := by
  unfold State.transferOutOfRange State.effectiveAddress
  rw [Bool.and_eq_true, decide_eq_true_iff, decide_eq_true_iff]
  simp only [show Config.memSize = 4096 from rfl]
  omega

/-- An in-range transfer, the empty one included, has its effect. -/
theorem State.transfer_inRange (h : n = 0 ∨ s.i.toNat + n ≤ 4096) : s.transfer n t = .next t := by
  unfold State.transfer
  rw [if_neg]
  rw [State.transferOutOfRange_iff]
  omega

/-- Any other transfer is a fault. -/
theorem State.transfer_outOfRange (h0 : 0 < n) (h : 4096 < s.i.toNat + n) :
    s.transfer n t = .fault (.outOfRangeAddress .memory (max s.i.toNat 4096)) := by
  unfold State.transfer
  rw [if_pos (State.transferOutOfRange_iff.2 ⟨h0, h⟩)]
  rfl

/-- There is no third case. -/
theorem State.transfer_cases (s t : State) (n : Nat) :
    ((n = 0 ∨ s.i.toNat + n ≤ 4096) ∧ s.transfer n t = .next t) ∨
      (0 < n ∧ 4096 < s.i.toNat + n ∧ s.transfer n t = .fault (.outOfRangeAddress .memory (max s.i.toNat 4096))) := by
  by_cases h : n = 0 ∨ s.i.toNat + n ≤ 4096
  · exact .inl ⟨h, State.transfer_inRange h⟩
  · exact .inr ⟨by omega, by omega, State.transfer_outOfRange (by omega) (by omega)⟩

theorem State.transfer_next {d : State} (h : s.transfer n d = .next t) : t = d ∧ (n = 0 ∨ s.i.toNat + n ≤ 4096) := by
  rcases State.transfer_cases s d n with ⟨hr, e⟩ | ⟨-, -, e⟩
  · rw [e] at h; cases h; exact ⟨rfl, hr⟩
  · rw [e] at h; cases h

end

@[simp] theorem length_decimalDigits (b : Byte) : (decimalDigits b).length = 3 := rfl

@[simp] theorem State.length_regsUpTo (s : State) (x : Reg) : (s.regsUpTo x).length = x.val + 1 := by
  simp [State.regsUpTo]

theorem State.getElem_regsUpTo (s : State) (x r : Reg) (h : r.val < (s.regsUpTo x).length) :
    (s.regsUpTo x)[r.val] = s.getV r := by
  simp [State.regsUpTo, State.getV, Vector.get_eq_getElem]

theorem State.get_regsLoaded (s : State) (x r : Reg) :
    (s.regsLoaded x).get r = if r ≤ x then s.mem.byteAt (s.i.toNat + r.val) else s.getV r := by
  simp [State.regsLoaded, State.effectiveAddress, Vector.get_eq_getElem]

/-! ## The key that a register names (45_keypad_timers.md R222) and the key scan (60_exceptions.md R255) -/

theorem keyOf_val (k : Key) {vx : Byte} (h : vx.toNat = k.val) : keyOf vx = some k := by
  unfold keyOf
  rw [dif_pos (by omega)]
  exact congrArg some (Fin.ext h)

theorem keyOf_none {vx : Byte} (h : 16 ≤ vx.toNat) : keyOf vx = none := dif_neg (by omega)

theorem State.firstPressed_none {s : State} : s.firstPressed = none ↔ ∀ k, s.isPressed k = false := by
  simp [State.firstPressed]

/-- The scan finds the least pressed key. -/
theorem State.firstPressed_some {s : State} {k : Key} :
    s.firstPressed = some k ↔ s.isPressed k = true ∧ ∀ j < k, s.isPressed j = false := by
  have key : ∀ k, s.firstPressed = some k → s.isPressed k = true ∧ ∀ j < k, s.isPressed j = false := by
    intro k h
    obtain ⟨hk, as, bs, e, hn⟩ := List.find?_eq_some_iff_append.1 h
    refine ⟨hk, fun j hj => ?_⟩
    have hsort : (as ++ k :: bs).Pairwise (· < ·) := e ▸ List.pairwise_lt_finRange 16
    have hj' : j ∈ as ++ k :: bs := e ▸ List.mem_finRange j
    rcases List.mem_append.1 hj' with h1 | h1
    · simpa using hn j h1
    · have h2 := (List.pairwise_append.1 hsort).2.1
      rcases List.mem_cons.1 h1 with rfl | h3
      · exact absurd hj (lt_irrefl _)
      · exact absurd (hj.trans ((List.pairwise_cons.1 h2).1 j h3)) (lt_irrefl _)
  refine ⟨key k, fun ⟨hk, hl⟩ => ?_⟩
  cases h : s.firstPressed with
  | none => rw [State.firstPressed_none.1 h k] at hk; cases hk
  | some j =>
    obtain ⟨hj, hm⟩ := key j h
    rcases lt_trichotomy j k with hlt | rfl | hlt
    · rw [hl j hlt] at hj; cases hj
    · rfl
    · rw [hm k hlt] at hk; cases hk

theorem keyByte_toNat (k : Key) : (keyByte k).toNat = k.val := by
  simp only [keyByte, BitVec.toNat_ofNat]
  omega

/-! ## The fetch (40_engine.md R112, R113) -/

theorem State.fetchWord_inRange {s : State} (h : s.pc.toNat + 1 < 4096) :
    s.fetchWord = .ok (wordOfBytes (s.mem.byteAt s.pc.toNat) (s.mem.byteAt (s.pc.toNat + 1))) := by
  simp [State.fetchWord, State.memRead, Config.memSize, h, show s.pc.toNat < 4096 by omega]

theorem State.fetchWord_outOfRange {s : State} (h : 4095 ≤ s.pc.toNat) :
    s.fetchWord = .error (.outOfRangeAddress .memory (max s.pc.toNat 4096)) := by
  rcases Nat.lt_or_ge s.pc.toNat 4096 with h4 | h4
  · have : s.pc.toNat = 4095 := by omega
    simp [State.fetchWord, State.memRead, Config.memSize, this]
  · have : ¬ s.pc.toNat < 4096 := by omega
    simp [State.fetchWord, State.memRead, Config.memSize, this, Nat.max_eq_left h4]

theorem State.fetchWord_ok {s : State} {w : Word} (h : s.fetchWord = .ok w) :
    s.pc.toNat + 1 < 4096 ∧ w = wordOfBytes (s.mem.byteAt s.pc.toNat) (s.mem.byteAt (s.pc.toNat + 1)) := by
  rcases Nat.lt_or_ge s.pc.toNat 4095 with h4 | h4
  · rw [State.fetchWord_inRange (by omega)] at h
    cases h
    exact ⟨by omega, rfl⟩
  · rw [State.fetchWord_outOfRange h4] at h
    cases h

/-! ## The step (40_engine.md R110) -/

section
variable {s t : State}

theorem step_running {w : Word} (hm : s.mode = .running) (hf : s.fetchWord = .ok w) {i : Instr}
    (hd : decode w = .ok i) : step s = exec i s := by
  simp [step, hm, hf, hd]

theorem step_unknown {w : Word} (hm : s.mode = .running) (hf : s.fetchWord = .ok w) {e : DecodeError}
    (hd : decode w = .error e) : step s = .next s.advance := by
  simp [step, hm, hf, hd, unknownWord]

theorem step_fetchFault (hm : s.mode = .running) {f : Fault} (hf : s.fetchWord = .error f) : step s = .fault f := by
  simp [step, hm, hf, raise]

theorem step_waiting {x : Reg} (hm : s.mode = .awaitingKey x) (hk : s.firstPressed = none) : step s = .next s := by
  simp [step, hm, awaitKey, hk]

theorem step_keyArrives {x : Reg} (hm : s.mode = .awaitingKey x) {k : Key} (hk : s.firstPressed = some k) :
    step s = .next ((s.takeKey x k).setMode .running) := by
  simp [step, hm, awaitKey, hk]

theorem State.nextInstr_some {i : Instr} :
    s.nextInstr = some i ↔ s.mode = .running ∧ ∃ w, s.fetchWord = .ok w ∧ decode w = .ok i := by
  unfold State.nextInstr
  cases hm : s.mode with
  | awaitingKey x => simp
  | running =>
    cases hf : s.fetchWord with
    | error f => simp
    | ok w => cases hd : decode w <;> simp [hd]

/-- Every way a step can go on. -/
theorem step_next_cases (h : step s = .next t) :
    (∃ x, s.mode = .awaitingKey x ∧ s.firstPressed = none ∧ t = s) ∨
    (∃ x k, s.mode = .awaitingKey x ∧ s.firstPressed = some k ∧ t = (s.takeKey x k).setMode .running) ∨
    (s.mode = .running ∧ ∃ w e, s.fetchWord = .ok w ∧ decode w = .error e ∧ t = s.advance) ∨
    (∃ i, s.nextInstr = some i ∧ exec i s = .next t) := by
  cases hm : s.mode with
  | awaitingKey x =>
    cases hk : s.firstPressed with
    | none => rw [step_waiting hm hk] at h; cases h; exact .inl ⟨x, rfl, rfl, rfl⟩
    | some k => rw [step_keyArrives hm hk] at h; cases h; exact .inr (.inl ⟨x, k, rfl, rfl, rfl⟩)
  | running =>
    cases hf : s.fetchWord with
    | error f => rw [step_fetchFault hm hf] at h; cases h
    | ok w =>
      cases hd : decode w with
      | error e => rw [step_unknown hm hf hd] at h; cases h; exact .inr (.inr (.inl ⟨rfl, w, e, rfl, hd, rfl⟩))
      | ok i =>
        rw [step_running hm hf hd] at h
        exact .inr (.inr (.inr ⟨i, State.nextInstr_some.2 ⟨hm, w, hf, hd⟩, h⟩))

/-- Every way a step can stop: the fetch, or the instruction it runs. -/
theorem step_fault_cases {f : Fault} (h : step s = .fault f) :
    (s.mode = .running ∧ s.fetchWord = .error f) ∨ (∃ i, s.nextInstr = some i ∧ exec i s = .fault f) := by
  cases hm : s.mode with
  | awaitingKey x =>
    cases hk : s.firstPressed with
    | none => rw [step_waiting hm hk] at h; cases h
    | some k => rw [step_keyArrives hm hk] at h; cases h
  | running =>
    cases hf : s.fetchWord with
    | error f' => rw [step_fetchFault hm hf] at h; cases h; exact .inl ⟨rfl, rfl⟩
    | ok w =>
      cases hd : decode w with
      | error e => rw [step_unknown hm hf hd] at h; cases h
      | ok i =>
        rw [step_running hm hf hd] at h
        exact .inr ⟨i, State.nextInstr_some.2 ⟨hm, w, hf, hd⟩, h⟩

end

end Sys2Proof.Machine
end

