-- ==== Sys2Proof/Laws/Host.lean ====
section
/-! SUPPORT. What a step returns to the host, a schedule that repeats one operation, and the state that the host's fetch word
makes. -/

namespace Sys2Proof.Machine

section
variable {s t : State}

/-! ## What a step returns (40_engine.md R110, R115, R121) -/

theorem State.goOnResult_waiting {x : Reg} (hm : s.mode = .awaitingKey x) : s.goOnResult = .ok := by
  simp [State.goOnResult, State.unknownWordNext, hm]

theorem State.goOnResult_unknown {w : Word} {e : DecodeError} (hm : s.mode = .running) (hf : s.fetchWord = .ok w)
    (hd : decode w = .error e) : s.goOnResult = .fault (.unknownOpcode w) := by
  simp [State.goOnResult, State.unknownWordNext, hm, hf, hd]

theorem State.goOnResult_instr {i : Instr} (hi : s.nextInstr = some i) : s.goOnResult = .ok := by
  obtain ⟨hm, w, hf, hd⟩ := State.nextInstr_some.1 hi
  simp [State.goOnResult, State.unknownWordNext, hm, hf, hd]

theorem hostStep_next (h : step s = .next t) : hostStep s = (t, s.goOnResult) := by rw [hostStep, h]; rfl

theorem hostStep_fault {f : Fault} (h : step s = .fault f) : hostStep s = (s, .fault f) := by rw [hostStep, h]; rfl

/-! ## Schedules (60_exceptions.md R261) -/

/-- An operation that leaves the state alone leaves it alone however often it is repeated. -/
theorem runSchedule_replicate {op : HostOp} {r : OpResult} (h : runHostOp s op = (s, r)) (n : Nat) :
    runSchedule (List.replicate n op) s = (s, List.replicate n r) := by
  induction n with
  | zero => rfl
  | succ n ih => simp [List.replicate_succ, runSchedule, h, ih]

theorem runSchedule_append (ops ops' : List HostOp) (s : State) : runSchedule (ops ++ ops') s =
    ((runSchedule ops' (runSchedule ops s).1).1, (runSchedule ops s).2 ++ (runSchedule ops' (runSchedule ops s).1).2) := by
  induction ops generalizing s with
  | nil => simp [runSchedule]
  | cons op ops ih => simp [runSchedule, ih]

/-! ## The host's fetch word (log 23) -/

theorem State.placePc_inRange (s : State) : s.placePc.toNat + 1 < 4096 := by
  unfold State.placePc
  split
  · next h => exact h
  · decide

/-- The word stored is the word the next step fetches. -/
theorem State.fetchWord_placeWord (h : s.mem.wf = true) (w : Word) : (s.placeWord w).fetchWord = .ok w := by
  have hp := s.placePc_inRange
  have hr : s.placePc.toNat + [highByte w, lowByte w].length ≤ Config.memSize := hp
  have h0 := Memory.byteAt_writeBytes_inside h hr (k := 0) (by simp)
  have h1 := Memory.byteAt_writeBytes_inside h hr (k := 1) (by simp)
  rw [State.fetchWord_inRange (s := s.placeWord w) hp]
  exact congrArg _ ((congrArg₂ wordOfBytes h0 h1).trans (wordOfBytes_bytes w))

/-- The next step after `withFetchWord` runs exactly the word's instruction. -/
theorem step_withFetchWord (h : s.mem.wf = true) {nbits w : Nat} {i : Instr} (hd : decodeTableWord nbits w = some i) :
    step (s.withFetchWord nbits w) = exec i (s.withFetchWord nbits w) := by
  rw [decodeTableWord_eq] at hd
  refine step_running rfl (State.fetchWord_placeWord h _) ?_
  cases hw : decode (tableWord nbits w) with
  | error e => rw [hw] at hd; cases hd
  | ok j => rw [hw] at hd; cases hd; rfl

end

end Sys2Proof.Machine
end

