-- ==== Sys2Proof/Laws/Instructions.lean ====
section
/-! SUPPORT. What `exec` answers for the instructions that can fault, said once for each; the other instructions answer a next
state by definition. -/

namespace Sys2Proof.Machine

section
variable {s t : State}

theorem exec_ret_next : exec .ret s = .next t ↔ ∃ a rest, s.stack = a :: rest ∧ t = (s.setStack rest).setPc a := by
  simp only [exec, execRet]
  cases h : s.stack with
  | nil => simp [raise]
  | cons a rest => simp [eq_comm]

theorem exec_call_next {nnn : Addr12} : exec (.call nnn) s = .next t ↔
    s.stack.length < s.cfg.stackDepth ∧ t = (s.setStack (s.nextPc :: s.stack)).setPc (addressOf nnn) := by
  simp only [exec, execCall]
  split
  · simp [raise]; omega
  · simp [eq_comm]; omega

theorem exec_ldBVx_next {x : Reg} : exec (.ldBVx x) s = .next t ↔
    s.i.toNat + 3 ≤ 4096 ∧ t = (s.setMem (s.mem.writeBytes s.i.toNat (decimalDigits (s.getV x)))).advance := by
  refine ⟨fun h => ?_, fun ⟨h, e⟩ => e ▸ State.transfer_inRange (.inr h)⟩
  obtain ⟨e, hr⟩ := State.transfer_next h
  exact ⟨by omega, e⟩

theorem exec_ldMemVx_next {x : Reg} : exec (.ldMemVx x) s = .next t ↔
    s.i.toNat + (x.val + 1) ≤ 4096 ∧ t = (s.setMem (s.mem.writeBytes s.i.toNat (s.regsUpTo x))).advance := by
  refine ⟨fun h => ?_, fun ⟨h, e⟩ => e ▸ State.transfer_inRange (.inr h)⟩
  obtain ⟨e, hr⟩ := State.transfer_next h
  exact ⟨by omega, e⟩

theorem exec_ldVxMem_next {x : Reg} : exec (.ldVxMem x) s = .next t ↔
    s.i.toNat + (x.val + 1) ≤ 4096 ∧ t = (s.setRegs (s.regsLoaded x)).advance := by
  refine ⟨fun h => ?_, fun ⟨h, e⟩ => e ▸ State.transfer_inRange (.inr h)⟩
  obtain ⟨e, hr⟩ := State.transfer_next h
  exact ⟨by omega, e⟩

theorem exec_drw_next {x y : Reg} {n : RowCount} : exec (.drw x y n) s = .next t ↔
    (n.val = 0 ∨ s.i.toNat + n.val ≤ 4096) ∧
      t = ((s.setDisp (s.drawn x y n).1).setV Reg.vf (flagByte (s.drawn x y n).2)).advance := by
  refine ⟨fun h => ?_, fun ⟨h, e⟩ => e ▸ State.transfer_inRange h⟩
  obtain ⟨e, hr⟩ := State.transfer_next h
  exact ⟨hr, e⟩

/-- A key skip goes on exactly when the register names a key. -/
theorem State.keySkip_next {vx : Byte} {cond : Key → Bool} :
    s.keySkip vx cond = .next t ↔ ∃ k : Key, vx.toNat = k.val ∧ t = s.skipIf (cond k) := by
  unfold State.keySkip
  rcases Nat.lt_or_ge vx.toNat 16 with h | h
  · rw [keyOf_val ⟨vx.toNat, h⟩ rfl]
    constructor
    · intro e
      cases e
      exact ⟨⟨vx.toNat, h⟩, rfl, rfl⟩
    · rintro ⟨k, hk, rfl⟩
      obtain rfl : (⟨vx.toNat, h⟩ : Key) = k := Fin.ext hk
      rfl
  · rw [keyOf_none h]
    constructor
    · intro e; cases e
    · rintro ⟨k, hk, -⟩
      have := k.isLt
      omega

/-- Otherwise it names the register's value as the key that does not exist. -/
theorem State.keySkip_fault {vx : Byte} {cond : Key → Bool} (h : 16 ≤ vx.toNat) :
    s.keySkip vx cond = .fault (.outOfRangeAddress .keypad vx.toNat) := by
  unfold State.keySkip
  rw [keyOf_none h]
  rfl

theorem exec_ldVxK_next {x : Reg} : exec (.ldVxK x) s = .next t ↔
    (s.firstPressed = none ∧ t = s.setMode (.awaitingKey x)) ∨ ∃ k, s.firstPressed = some k ∧ t = s.takeKey x k := by
  simp only [exec, execLdVxK]
  cases h : s.firstPressed <;> simp [eq_comm]

end

end Sys2Proof.Machine
end

