-- ==== Sys2Proof/Laws/PerInstr.lean ====
section
/-! SUPPORT. The family of statements made 'for all instructions' (LAWS.json): the encoder's word of an instruction fits the
opcode map's row of that instruction's mnemonic, one lemma per constructor. -/

namespace Sys2Proof.Laws.EncodedRow

/-- The encoder's word fits the opcode map's row of the instruction's own mnemonic (spec/30_encoding.md R82, R86). -/
def Statement (i : Instr) : Prop := ∃ r ∈ opcodeMap, r.mnemonic = i.mnemonic ∧ r.fits (encode i) = true

/-- The row by its place in the map. -/
theorem ofFits {i : Instr} (k : Fin 34) (hm : (opcodeMap[k]'(k.isLt)).mnemonic = i.mnemonic)
    (hf : (opcodeMap[k]'(k.isLt)).fits (encode i) = true) : Statement i := ⟨_, List.getElem_mem _, hm, hf⟩

/-! ## A word of each format fits the row that has its fixed digits -/

theorem fields_formatA_zero : ∀ op : BitVec 4, nibble (xField (formatA op 0#12)) = 0#4 ∧
    nibble (yField (formatA op 0#12)) = 0#4 ∧ nibble (nField (formatA op 0#12)) = 0#4 := by decide

theorem mask_opField : opField 0xF000#16 = BitVec.allOnes 4 := by decide

theorem mask_xField : nibble (xField 0xF000#16) = 0#4 := by decide

theorem mask_yField : nibble (yField 0xF000#16) = 0#4 := by decide

theorem mask_nField : nibble (nField 0xF000#16) = 0#4 := by decide

theorem mask_formatXS : ∀ k : Fin 16, (0xF0FF#16)[k] = !(decide (8 ≤ k.val ∧ k.val < 12)) := by decide

section
variable (m : String) (op : BitVec 4) (x y : Reg) (n : BitVec 4) (nn : Byte) (nnn : Addr12)

/-- A row that compares the opcode family alone fits every word of the family. -/
theorem fits_family (w : Word) (h : opField w = op) : OpcodeRow.fits ⟨m, formatA op 0#12, 0xF000#16⟩ w = true := by
  obtain ⟨hx, hy, hn⟩ := fields_formatA_zero op
  rw [OpcodeRow.fits_iff, opField_formatA, h, hx, hy, hn]
  exact ⟨(congrArg _ mask_opField).trans BitVec.and_allOnes, (congrArg _ mask_xField).trans BitVec.and_zero,
    (congrArg _ mask_yField).trans BitVec.and_zero, (congrArg _ mask_nField).trans BitVec.and_zero⟩

theorem fits_formatA : OpcodeRow.fits ⟨m, formatA op 0#12, 0xF000#16⟩ (formatA op nnn) = true :=
  fits_family m op _ (opField_formatA op nnn)

theorem fits_formatXK : OpcodeRow.fits ⟨m, formatA op 0#12, 0xF000#16⟩ (formatXK op x nn) = true :=
  fits_family m op _ (opField_formatXK op x nn)

theorem fits_formatXYN : OpcodeRow.fits ⟨m, formatA op 0#12, 0xF000#16⟩ (formatXYN op x y n) = true :=
  fits_family m op _ (opField_formatXYN op x y n)

theorem fits_formatXY : OpcodeRow.fits ⟨m, formatXYN op 0 0 n, 0xF00F#16⟩ (formatXYN op x y n) = true := by
  rw [OpcodeRow.fits_iff]
  simp only [opField_formatXYN, xField_formatXYN, yField_formatXYN, nField_formatXYN]
  exact ⟨BitVec.and_allOnes, BitVec.and_zero, BitVec.and_zero, BitVec.and_allOnes⟩

theorem fits_formatXS : OpcodeRow.fits ⟨m, formatXK op 0 nn, 0xF0FF#16⟩ (formatXK op x nn) = true := by
  rw [OpcodeRow.fits, beq_iff_eq]
  ext k hk
  have := mask_formatXS ⟨k, hk⟩
  simp [formatXK, nibble] at this ⊢
  grind

end

/-! ## The instructions -/

theorem cls : Statement .cls := ofFits 0 rfl rfl

theorem ret : Statement .ret := ofFits 1 rfl rfl

theorem jp (nnn : Addr12) : Statement (.jp nnn) := ofFits 2 rfl (fits_formatA _ 0x1#4 nnn)

theorem call (nnn : Addr12) : Statement (.call nnn) := ofFits 3 rfl (fits_formatA _ 0x2#4 nnn)

theorem seVxNn (x : Reg) (nn : Byte) : Statement (.seVxNn x nn) := ofFits 4 rfl (fits_formatXK _ 0x3#4 x nn)

theorem sneVxNn (x : Reg) (nn : Byte) : Statement (.sneVxNn x nn) := ofFits 5 rfl (fits_formatXK _ 0x4#4 x nn)

theorem seVxVy (x y : Reg) : Statement (.seVxVy x y) := ofFits 6 rfl (fits_formatXY _ 0x5#4 x y 0x0#4)

theorem ldVxNn (x : Reg) (nn : Byte) : Statement (.ldVxNn x nn) := ofFits 7 rfl (fits_formatXK _ 0x6#4 x nn)

theorem addVxNn (x : Reg) (nn : Byte) : Statement (.addVxNn x nn) := ofFits 8 rfl (fits_formatXK _ 0x7#4 x nn)

theorem ldVxVy (x y : Reg) : Statement (.ldVxVy x y) := ofFits 9 rfl (fits_formatXY _ 0x8#4 x y 0x0#4)

theorem orVxVy (x y : Reg) : Statement (.orVxVy x y) := ofFits 10 rfl (fits_formatXY _ 0x8#4 x y 0x1#4)

theorem andVxVy (x y : Reg) : Statement (.andVxVy x y) := ofFits 11 rfl (fits_formatXY _ 0x8#4 x y 0x2#4)

theorem xorVxVy (x y : Reg) : Statement (.xorVxVy x y) := ofFits 12 rfl (fits_formatXY _ 0x8#4 x y 0x3#4)

theorem addVxVy (x y : Reg) : Statement (.addVxVy x y) := ofFits 13 rfl (fits_formatXY _ 0x8#4 x y 0x4#4)

theorem sub (x y : Reg) : Statement (.sub x y) := ofFits 14 rfl (fits_formatXY _ 0x8#4 x y 0x5#4)

theorem shr (x : Reg) : Statement (.shr x) := ofFits 15 rfl (fits_formatXY _ 0x8#4 x 0 0x6#4)

theorem subn (x y : Reg) : Statement (.subn x y) := ofFits 16 rfl (fits_formatXY _ 0x8#4 x y 0x7#4)

theorem shl (x : Reg) : Statement (.shl x) := ofFits 17 rfl (fits_formatXY _ 0x8#4 x 0 0xE#4)

theorem sneVxVy (x y : Reg) : Statement (.sneVxVy x y) := ofFits 18 rfl (fits_formatXY _ 0x9#4 x y 0x0#4)

theorem ldINnn (nnn : Addr12) : Statement (.ldINnn nnn) := ofFits 19 rfl (fits_formatA _ 0xA#4 nnn)

theorem jpV0 (nnn : Addr12) : Statement (.jpV0 nnn) := ofFits 20 rfl (fits_formatA _ 0xB#4 nnn)

theorem rnd (x : Reg) (nn : Byte) : Statement (.rnd x nn) := ofFits 21 rfl (fits_formatXK _ 0xC#4 x nn)

theorem drw (x y : Reg) (n : RowCount) : Statement (.drw x y n) := ofFits 22 rfl (fits_formatXYN _ 0xD#4 x y (nibble n))

theorem skp (x : Reg) : Statement (.skp x) := ofFits 23 rfl (fits_formatXS _ 0xE#4 x 0x9E#8)

theorem sknp (x : Reg) : Statement (.sknp x) := ofFits 24 rfl (fits_formatXS _ 0xE#4 x 0xA1#8)

theorem ldVxDt (x : Reg) : Statement (.ldVxDt x) := ofFits 25 rfl (fits_formatXS _ 0xF#4 x 0x07#8)

theorem ldVxK (x : Reg) : Statement (.ldVxK x) := ofFits 26 rfl (fits_formatXS _ 0xF#4 x 0x0A#8)

theorem ldDtVx (x : Reg) : Statement (.ldDtVx x) := ofFits 27 rfl (fits_formatXS _ 0xF#4 x 0x15#8)

theorem ldStVx (x : Reg) : Statement (.ldStVx x) := ofFits 28 rfl (fits_formatXS _ 0xF#4 x 0x18#8)

theorem addIVx (x : Reg) : Statement (.addIVx x) := ofFits 29 rfl (fits_formatXS _ 0xF#4 x 0x1E#8)

theorem ldFVx (x : Reg) : Statement (.ldFVx x) := ofFits 30 rfl (fits_formatXS _ 0xF#4 x 0x29#8)

theorem ldBVx (x : Reg) : Statement (.ldBVx x) := ofFits 31 rfl (fits_formatXS _ 0xF#4 x 0x33#8)

theorem ldMemVx (x : Reg) : Statement (.ldMemVx x) := ofFits 32 rfl (fits_formatXS _ 0xF#4 x 0x55#8)

theorem ldVxMem (x : Reg) : Statement (.ldVxMem x) := ofFits 33 rfl (fits_formatXS _ 0xF#4 x 0x65#8)

end Sys2Proof.Laws.EncodedRow
end

