-- ==== Sys2Proof/Tests/Slice0.lean ====
section
/-! SUPPORT. The model's own tests: what is ill formed is refused, words written out from spec/30_encoding.md decode to what they
stand for, single steps give what spec/95_test_vectors.md says (the vector is named in each comment), and each obligation's
hypotheses are met by a state. -/

namespace Sys2Proof.Tests

open Sys2Proof.Machine

/-! ## Helpers -/

/-- The reset state with some registers set. -/
def start (regs : List (Reg × Byte)) : State := regs.foldl (fun s p => s.setV p.1 p.2) State.reset

/-- What a part of the state is after one step of a word, if the step goes on. -/
def after {α : Type} (w : Nat) (s : State) (part : State → α) : Option α :=
  match step (s.withFetchWord 16 w) with
  | .next t => some (part t)
  | .fault _ => none
  | .refused _ => none

/-- The fault of one step of a word. -/
def faultOf (w : Nat) (s : State) : Option Fault :=
  match step (s.withFetchWord 16 w) with
  | .next _ => none
  | .fault f => some f
  | .refused _ => none

/-- A memory with some bytes written. -/
def bytes (a : Nat) (bs : List Byte) : Memory := Memory.writeBytes [] a bs

/-- A register and VF and PC, which most tests look at. -/
def regVfPc (x : Reg) (t : State) : Byte × Byte × Word := (t.getV x, t.getV Reg.vf, t.pc)

/-! ## Well-formedness: words that no row fits, and an image that does not fit (V5 to V12, V108, V109) -/

theorem test_illFormedWord_0000 : wordWellFormed 0x0000#16 = false ∧ decode 0x0000#16 = .error (.unknownOpcode 0x0000#16) := by
  decide

theorem test_illFormedWord_0123 : wordWellFormed 0x0123#16 = false ∧ decode 0x0123#16 = .error (.unknownOpcode 0x0123#16) := by
  decide

theorem test_illFormedWord_01E0 : wordWellFormed 0x01E0#16 = false ∧ decode 0x01E0#16 = .error (.unknownOpcode 0x01E0#16) := by
  decide

theorem test_illFormedWord_5121 : wordWellFormed 0x5121#16 = false ∧ decode 0x5121#16 = .error (.unknownOpcode 0x5121#16) := by
  decide

theorem test_illFormedWord_800F : wordWellFormed 0x800F#16 = false ∧ decode 0x800F#16 = .error (.unknownOpcode 0x800F#16) := by
  decide

theorem test_illFormedWord_9121 : wordWellFormed 0x9121#16 = false ∧ decode 0x9121#16 = .error (.unknownOpcode 0x9121#16) := by
  decide

theorem test_illFormedWord_E000 : wordWellFormed 0xE000#16 = false ∧ decode 0xE000#16 = .error (.unknownOpcode 0xE000#16) := by
  decide

theorem test_illFormedWord_FFFF : wordWellFormed 0xFFFF#16 = false ∧ decode 0xFFFF#16 = .error (.unknownOpcode 0xFFFF#16) := by
  decide

theorem test_wellFormedWord_00E0 : wordWellFormed 0x00E0#16 = true := by decide

theorem test_illFormedImage : imageWellFormed (List.replicate 3585 0#8) = false :=
  decide_eq_false (by rw [List.length_replicate]; omega)

theorem test_wellFormedImage : imageWellFormed (List.replicate 3584 0#8) = true :=
  decide_eq_true (by rw [List.length_replicate])

theorem test_truncatedBytes : decodeBytes [0x60#8] = .error .truncated := by decide

theorem test_bytesAreHighByteFirst : decodeBytes [0x6A#8, 0x7B#8, 0x12#8] = .ok (.ldVxNn 10 0x7B#8, [0x12#8]) := by decide

/-! ## Decoding: each word written out, nibble by nibble, from the formats of spec/30_encoding.md R82 and the rows of R86 -/

theorem test_decode_cls : decode 0b0000_0000_1110_0000#16 = .ok .cls := by decide

theorem test_decode_ret : decode 0b0000_0000_1110_1110#16 = .ok .ret := by decide

theorem test_decode_jp : decode 0b0001_1010_1011_1100#16 = .ok (.jp 0xABC#12) := by decide

theorem test_decode_call : decode 0b0010_1010_1011_1100#16 = .ok (.call 0xABC#12) := by decide

theorem test_decode_seVxNn : decode 0b0011_0011_0001_0010#16 = .ok (.seVxNn 3 0x12#8) := by decide

theorem test_decode_sneVxNn : decode 0b0100_0011_0001_0010#16 = .ok (.sneVxNn 3 0x12#8) := by decide

theorem test_decode_seVxVy : decode 0b0101_0001_0010_0000#16 = .ok (.seVxVy 1 2) := by decide

theorem test_decode_ldVxNn : decode 0b0110_1010_0111_1011#16 = .ok (.ldVxNn 10 0x7B#8) := by decide

theorem test_decode_addVxNn : decode 0b0111_1111_0000_0001#16 = .ok (.addVxNn 15 0x01#8) := by decide

theorem test_decode_ldVxVy : decode 0b1000_1010_0101_0000#16 = .ok (.ldVxVy 10 5) := by decide

theorem test_decode_or : decode 0b1000_1010_0101_0001#16 = .ok (.orVxVy 10 5) := by decide

theorem test_decode_and : decode 0b1000_1010_0101_0010#16 = .ok (.andVxVy 10 5) := by decide

theorem test_decode_xor : decode 0b1000_1010_0101_0011#16 = .ok (.xorVxVy 10 5) := by decide

theorem test_decode_addVxVy : decode 0b1000_1010_0101_0100#16 = .ok (.addVxVy 10 5) := by decide

theorem test_decode_sub : decode 0b1000_1010_0101_0101#16 = .ok (.sub 10 5) := by decide

theorem test_decode_shr : decode 0b1000_1010_0101_0110#16 = .ok (.shr 10) := by decide

theorem test_decode_subn : decode 0b1000_1010_0101_0111#16 = .ok (.subn 10 5) := by decide

theorem test_decode_shl : decode 0b1000_1010_0101_1110#16 = .ok (.shl 10) := by decide

theorem test_decode_sneVxVy : decode 0b1001_0001_0010_0000#16 = .ok (.sneVxVy 1 2) := by decide

theorem test_decode_ldINnn : decode 0b1010_0011_0000_0001#16 = .ok (.ldINnn 0x301#12) := by decide

theorem test_decode_jpV0 : decode 0b1011_1111_1111_1110#16 = .ok (.jpV0 0xFFE#12) := by decide

theorem test_decode_rnd : decode 0b1100_0011_0000_1111#16 = .ok (.rnd 3 0x0F#8) := by decide

theorem test_decode_drw : decode 0b1101_0001_0010_0101#16 = .ok (.drw 1 2 5) := by decide

theorem test_decode_skp : decode 0b1110_0011_1001_1110#16 = .ok (.skp 3) := by decide

theorem test_decode_sknp : decode 0b1110_0011_1010_0001#16 = .ok (.sknp 3) := by decide

theorem test_decode_ldVxDt : decode 0b1111_0101_0000_0111#16 = .ok (.ldVxDt 5) := by decide

theorem test_decode_ldVxK : decode 0b1111_0011_0000_1010#16 = .ok (.ldVxK 3) := by decide

theorem test_decode_ldDtVx : decode 0b1111_0011_0001_0101#16 = .ok (.ldDtVx 3) := by decide

theorem test_decode_ldStVx : decode 0b1111_0100_0001_1000#16 = .ok (.ldStVx 4) := by decide

theorem test_decode_addIVx : decode 0b1111_0010_0001_1110#16 = .ok (.addIVx 2) := by decide

theorem test_decode_ldFVx : decode 0b1111_1010_0010_1001#16 = .ok (.ldFVx 10) := by decide

theorem test_decode_ldBVx : decode 0b1111_1010_0011_0011#16 = .ok (.ldBVx 10) := by decide

theorem test_decode_ldMemVx : decode 0b1111_0010_0101_0101#16 = .ok (.ldMemVx 2) := by decide

theorem test_decode_ldVxMem : decode 0b1111_0010_0110_0101#16 = .ok (.ldVxMem 2) := by decide

/-! ## The engine (V1 to V5, V13, V14) -/

theorem test_V1_fetch_at_FFF : (hostStep (State.reset.setPc 0xFFF#16)).2 = .fault (.outOfRangeAddress .memory 0x1000) := by decide

theorem test_V3_fetch_at_10FE : (hostStep (State.reset.setPc 0x10FE#16)).2 = .fault (.outOfRangeAddress .memory 0x10FE) := by
  decide

theorem test_V4_odd_pc : (hostStep ((State.reset.setPc 0x201#16).setMem (bytes 0x201 [0x60#8, 0x05#8]))).1.getV 0 = 0x05#8 := by
  decide

theorem test_V6_unknown : hostStep (State.reset.withFetchWord 16 0x0123) =
    ((State.reset.withFetchWord 16 0x0123).setPc 0x202#16, .fault (.unknownOpcode 0x0123#16)) := by decide

theorem test_V14_boot : hostStep State.reset = (State.reset.setPc 0x202#16, .fault (.unknownOpcode 0x0000#16)) := by decide

theorem test_withFetchWord_beyond_memory : after 0x6A7B (State.reset.setPc 0xFFFF#16) (regVfPc 10) =
    some (0x7B#8, 0#8, 0x202#16) := by decide

theorem test_reset_font : State.reset.mem.byteAt 0x032 = 0xF0#8 ∧ State.reset.mem.byteAt 0x04F = 0x80#8 ∧
    State.reset.mem.byteAt 0x050 = 0#8 := by decide

theorem test_resetWith_default : State.resetWith defaultReset = State.reset := by decide

/-! ## Control transfer and skips (V20 to V39) -/

theorem test_V20_jp : after 0x1ABC State.reset State.pc = some 0xABC#16 := by decide

theorem test_V23_call : after 0x2ABC State.reset (fun t => (t.stack, t.pc)) = some ([0x202#16], 0xABC#16) := by decide

theorem test_V24_call_full : faultOf 0x2ABC (State.reset.setStack (List.replicate 16 0#16)) = some (.stackOverflow 0x200#16) := by
  decide

theorem test_V25_ret_empty : faultOf 0x00EE State.reset = some (.stackUnderflow 0x200#16) := by decide

theorem test_V26_ret : after 0x00EE (State.reset.setStack [0x206#16, 0x300#16]) (fun t => (t.stack, t.pc)) =
    some ([0x300#16], 0x206#16) := by decide

theorem test_V28_seVxNn : after 0x3310 (start [(3, 0x10#8)]) State.pc = some 0x204#16 := by decide

theorem test_V29_seVxNn : after 0x3310 (start [(3, 0x11#8)]) State.pc = some 0x202#16 := by decide

theorem test_V30_sneVxNn : after 0x4310 (start [(3, 0x10#8)]) State.pc = some 0x202#16 := by decide

theorem test_V31_sneVxNn : after 0x4310 (start [(3, 0x11#8)]) State.pc = some 0x204#16 := by decide

theorem test_V32_seVxVy : after 0x5120 (start [(1, 7#8), (2, 7#8)]) State.pc = some 0x204#16 := by decide

theorem test_V34_sneVxVy : after 0x9120 (start [(1, 7#8), (2, 8#8)]) State.pc = some 0x204#16 := by decide

theorem test_V35_sneVxVy : after 0x9110 (start [(1, 7#8)]) State.pc = some 0x202#16 := by decide

theorem test_V38_jpV0 : after 0xBFFF (start [(0, 0xFF#8)]) State.pc = some 0x10FE#16 := by decide

theorem test_V39_jpV0 : after 0xB300 (start [(0, 5#8), (5, 0x80#8)]) State.pc = some 0x305#16 := by decide

/-! ## Register loads and the ALU (V50 to V77) -/

theorem test_V50_ldVxNn : after 0x6A7B State.reset (regVfPc 10) = some (0x7B#8, 0#8, 0x202#16) := by decide

theorem test_V51_addVxNn : after 0x7001 (start [(0, 0xFF#8), (15, 5#8)]) (regVfPc 0) = some (0#8, 5#8, 0x202#16) := by decide

theorem test_V52_addVxNn : after 0x7F01 (start [(15, 0xFF#8)]) (regVfPc 15) = some (0#8, 0#8, 0x202#16) := by decide

theorem test_V53_ldVxVy : after 0x8010 (start [(1, 0x42#8)]) (regVfPc 0) = some (0x42#8, 0#8, 0x202#16) := by decide

theorem test_V54_or : after 0x8011 (start [(0, 0xF0#8), (1, 0x0F#8), (15, 9#8)]) (regVfPc 0) =
    some (0xFF#8, 9#8, 0x202#16) := by decide

theorem test_V55_and : after 0x8012 (start [(0, 0xF0#8), (1, 0x3C#8), (15, 9#8)]) (regVfPc 0) =
    some (0x30#8, 9#8, 0x202#16) := by decide

theorem test_V56_xor : after 0x8013 (start [(0, 0xF0#8), (1, 0x3C#8), (15, 9#8)]) (regVfPc 0) =
    some (0xCC#8, 9#8, 0x202#16) := by decide

theorem test_V58_addVxVy : after 0x8014 (start [(0, 0xFF#8), (1, 0xFF#8)]) (regVfPc 0) = some (0xFE#8, 1#8, 0x202#16) := by
  decide

theorem test_V61_addVxVy_vf : after 0x80F4 (start [(0, 0x10#8), (15, 1#8)]) (regVfPc 0) = some (0x11#8, 0#8, 0x202#16) := by
  decide

theorem test_V64_sub_equal : after 0x8015 (start [(0, 5#8), (1, 5#8)]) (regVfPc 0) = some (0#8, 1#8, 0x202#16) := by decide

theorem test_V65_sub_borrow : after 0x8015 (start [(0, 3#8), (1, 5#8)]) (regVfPc 0) = some (0xFE#8, 0#8, 0x202#16) := by decide

theorem test_V67_subn : after 0x8017 (start [(0, 1#8), (1, 0xFE#8)]) (regVfPc 0) = some (0xFD#8, 1#8, 0x202#16) := by decide

theorem test_V74_subn_both_orders :
    after 0x8F07 (start [(0, 5#8), (15, 3#8)]) (State.getV · Reg.vf) = some 2#8 ∧
    (let s := start [(0, 5#8), (15, 3#8)]
     let r : State := { s with cfg := { flagOrder := .resultThenFlag, stackDepth := 16 } }
     after 0x8F07 r (State.getV · Reg.vf) = some 1#8) := by decide

theorem test_V15_shr : after 0x81F6 (start [(1, 0x81#8)]) (regVfPc 1) = some (0x40#8, 1#8, 0x202#16) := by decide

theorem test_V75_shr_x_is_F : after 0x8F06 (start [(15, 0x81#8)]) (regVfPc 15) = some (0x40#8, 0x40#8, 0x202#16) := by decide

theorem test_V71_shl : after 0x800E (start [(0, 0x80#8)]) (regVfPc 0) = some (0#8, 1#8, 0x202#16) := by decide

theorem test_V72_shl : after 0x805E (start [(0, 1#8), (5, 0xFF#8)]) (regVfPc 0) = some (2#8, 0#8, 0x202#16) := by decide

/-- V77: under the mask 0 the result is 0, whatever the byte. -/
theorem test_V77_rnd : after 0xC300 (start [(3, 1#8)]) (State.getV · 3) = some 0#8 := by
  show some (0x00#8 &&& Config.randomByte 0) = some 0#8
  rw [BitVec.zero_and]

/-- V78 in form: under the mask 0xFF the result is the byte that the counter selects. -/
theorem test_V78_rnd : after 0xC3FF State.reset (State.getV · 3) = some (0xFF#8 &&& Config.randomByte 0) := rfl

/-! ## Index register and memory transfers (V90 to V110) -/

theorem test_V90_ldINnn : after 0xA300 State.reset State.i = some 0x300#16 := by decide

theorem test_V92_addIVx : after 0xF21E ((start [(2, 1#8)]).setI 0x0FFF#16) State.i = some 0x1000#16 := by decide

theorem test_V93_addIVx_wraps : after 0xF21E ((start [(2, 1#8)]).setI 0xFFFF#16) State.i = some 0x0000#16 := by decide

theorem test_V94_ldFVx : after 0xFA29 (start [(10, 0x0A#8)]) State.i = some 0x032#16 := by decide

theorem test_V96_ldFVx : after 0xF029 (start [(0, 0xFF#8)]) State.i = some 0x4FB#16 := by decide

theorem test_V97_ldBVx : after 0xF033 ((start [(0, 0x7B#8)]).setI 0xFFD#16) (fun t => t.mem.readBytes 0xFFD 3) =
    some [1#8, 2#8, 3#8] := by decide

theorem test_V99_ldBVx_beyond : faultOf 0xF033 (State.reset.setI 0x1234#16) = some (.outOfRangeAddress .memory 0x1234) := by
  decide

theorem test_V100_ldMemVx : after 0xF255 ((start [(0, 1#8), (1, 2#8), (2, 3#8), (3, 4#8)]).setI 0x300#16)
    (fun t => (t.mem.readBytes 0x300 4, t.i)) = some ([1#8, 2#8, 3#8, 0#8], 0x300#16) := by decide

theorem test_V102_ldMemVx_beyond : faultOf 0xFF55 (State.reset.setI 0xFF1#16) = some (.outOfRangeAddress .memory 0x1000) := by
  decide

theorem test_V104_ldVxMem : after 0xF265 (((start [(3, 9#8)]).setI 0x300#16).setMem (bytes 0x300 [1#8, 2#8, 3#8, 4#8]))
    (fun t => (t.getV 0, t.getV 1, t.getV 2, t.getV 3, t.i)) = some (1#8, 2#8, 3#8, 9#8, 0x300#16) := by decide

theorem test_V106_ldVxMem_beyond : faultOf 0xF165 (State.reset.setI 0xFFF#16) = some (.outOfRangeAddress .memory 0x1000) := by
  decide

theorem test_V109_loadProgram_too_long :
    runHostOp State.reset (.loadProgram (List.replicate 3585 0#8)) = (State.reset, .fault (.capacityExceeded 3585)) := by
  rw [runHostOp, loadProgram, test_illFormedImage, List.length_replicate]
  rfl

theorem test_W1_loadProgram : (runHostOp State.reset (.loadProgram [0x60#8, 0x05#8])).1.mem = [(0x200, 0x60#8), (0x201, 0x05#8)] := by
  decide

/-! ## The display (V120 to V126) -/

/-- A display with one pixel set. -/
def onePixel (x y : Nat) : Display := Display.clear.setPixel x y true

theorem test_V120_cls : after 0x00E0 (State.reset.setDisp (onePixel 63 31)) (fun t => t.disp) = some Display.clear := by decide

/-- V125 and V126 in one draw, worked out by hand from R203: both axes wrap. -/
theorem test_V125_V126_drw_wraps : after 0xD012 ((start [(0, 63#8), (1, 31#8), (15, 1#8)]).setMem (bytes 0 [0xC0#8, 0x80#8]))
    (fun t => (t.disp, t.getV Reg.vf)) =
    some (((onePixel 63 31).setPixel 0 31 true).setPixel 63 0 true, 0#8) := by decide

theorem test_V123_drw_collision : after 0xD011 ((State.reset.setDisp (onePixel 0 0)).setMem (bytes 0 [0x80#8]))
    (fun t => (t.disp, t.getV Reg.vf)) = some (Display.clear, 1#8) := by decide

/-! ## Keypad and timers (V140 to V156) -/

/-- The reset state with V3 set and some keys pressed. -/
def keysPressed (v3 : Byte) (ks : List Key) : State := ks.foldl (fun s k => s.setKey k true) (start [(3, v3)])

theorem test_V140_skp : after 0xE39E (keysPressed 7#8 [7]) State.pc = some 0x204#16 := by decide

theorem test_V144_skp_no_key : faultOf 0xE39E (keysPressed 0x10#8 []) = some (.outOfRangeAddress .keypad 0x10) := by decide

theorem test_V142_sknp : after 0xE3A1 (keysPressed 7#8 [6]) State.pc = some 0x204#16 := by decide

theorem test_V143_sknp : after 0xE3A1 (keysPressed 7#8 [7]) State.pc = some 0x202#16 := by decide

theorem test_V146_ldVxDt : after 0xF507 (State.reset.setDt 0x3B#8) (fun t => (t.getV 5, t.dt)) = some (0x3B#8, 0x3B#8) := by decide

theorem test_V147_ldVxK_waits : after 0xF30A (keysPressed 1#8 []) (fun t => (t.mode, t.pc, t.getV 3)) =
    some (.awaitingKey 3, 0x200#16, 1#8) := by decide

theorem test_V148_ldVxK_lowest : after 0xF30A (keysPressed 1#8 [5, 2]) (fun t => (t.mode, t.pc, t.getV 3)) =
    some (.running, 0x202#16, 2#8) := by decide

theorem test_V150_V151_key_arrives : runSchedule [.setKey 9 true, .step] (State.reset.setMode (.awaitingKey 3)) =
    (((State.reset.setKey 9 true).setV 3 9#8).setPc 0x202#16, [.ok, .ok]) := by decide

theorem test_V152_ldDtVx : after 0xF315 (start [(3, 0x3C#8)]) State.dt = some 0x3C#8 := by decide

theorem test_V153_ldStVx : after 0xF418 (start [(4, 2#8)]) (fun t => (t.st, t.soundActive)) = some (2#8, true) := by decide

theorem test_V155_tick : (((State.reset.setSt 2#8).tick.st, (State.reset.setSt 2#8).tick.tick.tick.st) = (1#8, 0#8)) := by decide

theorem test_V156_tick_while_waiting : ((State.reset.setDt 5#8).setMode (.awaitingKey 3)).tick =
    (State.reset.setDt 4#8).setMode (.awaitingKey 3) := by decide

/-! ## Witnesses: states and operands that meet the hypotheses of each obligation, clause by clause -/

/-- A state whose next step fetches a word. -/
def at_ (w : Nat) (regs : List (Reg × Byte)) : State := (start regs).withFetchWord 16 w

/-- The same with the word at another place. -/
def atPc (pc : Word) (w : Nat) : State := (State.reset.setPc pc).withFetchWord 16 w

/-- A state that waits for a key. -/
def waiting : State := State.reset.setMode (.awaitingKey 3)

/-- A memory that stands in canonical form and a stack in its bound. -/
theorem inv_of {s : State} (h : (s.mem.wf && decide (s.stack.length ≤ s.cfg.stackDepth)) = true) : s.Inv := by
  simpa [State.Inv] using h

theorem witness_ShiftsIgnoreYAndNothingElseIsIgnored : decode 0x8106#16 = .ok (.shr 1) ∧ decode 0x81F6#16 = .ok (.shr 1) ∧
    (0x8106#16 : Word) ≠ 0x81F6#16 ∧ decode 0x810E#16 = .ok (.shl 1) ∧ decode 0x811E#16 = .ok (.shl 1) ∧
    (0x810E#16 : Word) ≠ 0x811E#16 := by decide

theorem witness_DecoderAgreesWithTheOpcodeMap : decode 0xFF65#16 = .ok (.ldVxMem 15) ∧
    decode 0xFF66#16 = .error (.unknownOpcode 0xFF66#16) := by decide

/-- The premises of a step that runs `i`. -/
def runsAtPc (s : State) (i : Instr) : Prop := s.mode = .running ∧ s.pc.toNat + 1 < 4096 ∧
  decode (BitVec.ofNat 16 ((s.mem.byteAt s.pc.toNat).toNat * 256 + (s.mem.byteAt (s.pc.toNat + 1)).toNat)) = .ok i

/-- The last even and the last odd PC that fetch. -/
theorem witness_StepRunsTheInstructionAtPc : runsAtPc (atPc 0xFFE#16 0x6A7B) (.ldVxNn 10 0x7B#8) ∧
    (atPc 0xFFE#16 0x6A7B).pc = 0xFFE#16 ∧ runsAtPc (atPc 0xFFD#16 0x6A7B) (.ldVxNn 10 0x7B#8) ∧
    (atPc 0xFFD#16 0x6A7B).pc = 0xFFD#16 := by
  unfold runsAtPc
  decide

theorem witness_FetchBeyondMemoryFaults : (State.reset.setPc 0xFFF#16).mode = .running ∧
    4095 ≤ (State.reset.setPc 0xFFF#16).pc.toNat ∧ (State.reset.setPc 0x1000#16).mode = .running ∧
    4096 ≤ (State.reset.setPc 0x1000#16).pc.toNat := by decide

theorem witness_UnknownWordAdvancesPcAlone : State.reset.mode = .running ∧ State.reset.fetchWord.toOption = some 0x0000#16 ∧
    decode 0x0000#16 = .error (.unknownOpcode 0x0000#16) ∧ (atPc 0xFFD#16 0xFFFF).fetchWord.toOption = some 0xFFFF#16 ∧
    decode 0xFFFF#16 = .error (.unknownOpcode 0xFFFF#16) := by decide

theorem witness_WaitingStepEndsAtTheLowestPressedKey : waiting.mode = .awaitingKey 3 ∧
    (∀ k, waiting.isPressed k = false) ∧ (waiting.setKey 15 true).mode = .awaitingKey 3 ∧
    (waiting.setKey 15 true).isPressed 15 = true ∧ (∀ j < 15, (waiting.setKey 15 true).isPressed j = false) := by decide

theorem witness_BlockedExactlyWhileAwaitingKey : waiting.isBlocked = true ∧ ∀ k, waiting.isPressed k = false := by decide

theorem witness_SelfJumpLoopsWithoutFault : (atPc 0xFFE#16 0x1FFE).mode = .running ∧
    (atPc 0xFFE#16 0x1FFE).pc.toNat = (0xFFE#12 : Addr12).toNat ∧
    (atPc 0xFFE#16 0x1FFE).fetchWord.toOption = some (BitVec.ofNat 16 (0x1000 + (0xFFE#12 : Addr12).toNat)) := by decide

/-- One state for each disjunct of the statement. -/
theorem witness_EachFaultComesFromItsCause :
    step (State.reset.setPc 0xFFF#16) = .fault (.outOfRangeAddress .memory 0x1000) ∧
    step (at_ 0x00EE []) = .fault (.stackUnderflow 0x200#16) ∧
    step ((at_ 0x2ABC []).setStack (List.replicate 16 0#16)) = .fault (.stackOverflow 0x200#16) ∧
    step (at_ 0xE39E [(3, 0x10#8)]) = .fault (.outOfRangeAddress .keypad 0x10) ∧
    step (at_ 0xE3A1 [(3, 0xFF#8)]) = .fault (.outOfRangeAddress .keypad 0xFF) ∧
    step ((at_ 0xF033 []).setI 0xFFE#16) = .fault (.outOfRangeAddress .memory 0x1000) ∧
    step ((at_ 0xF155 []).setI 0xFFF#16) = .fault (.outOfRangeAddress .memory 0x1000) ∧
    step ((at_ 0xF165 []).setI 0xFFF#16) = .fault (.outOfRangeAddress .memory 0x1000) ∧
    step ((at_ 0xD012 []).setI 0xFFFF#16) = .fault (.outOfRangeAddress .memory 0xFFFF) :=
  ⟨rfl, rfl, rfl, rfl, rfl, rfl, rfl, rfl, rfl⟩

theorem witness_FaultedStepRepeats : step (at_ 0x00EE []) = .fault (.stackUnderflow 0x200#16) := rfl

theorem witness_OnlyTimerLoadsWriteTimersAndNoStepWritesKeys :
    (∃ t, step (at_ 0xF315 [(3, 1#8)]) = .next t ∧ t.dt ≠ (at_ 0xF315 [(3, 1#8)]).dt) ∧
    (∃ t, step (at_ 0xF318 [(3, 1#8)]) = .next t ∧ t.st ≠ (at_ 0xF318 [(3, 1#8)]).st) :=
  ⟨⟨_, rfl, by decide⟩, ⟨_, rfl, by decide⟩⟩

theorem witness_OnlyBcdAndRegisterStoresWriteMemory :
    (((at_ 0xF033 [(0, 7#8)]).setI 0xFFD#16).Inv ∧ ∃ t, step ((at_ 0xF033 [(0, 7#8)]).setI 0xFFD#16) = .next t ∧
      t.mem.byteAt 0xFFF ≠ ((at_ 0xF033 [(0, 7#8)]).setI 0xFFD#16).mem.byteAt 0xFFF) ∧
    (((at_ 0xF055 [(0, 7#8)]).setI 0xFFF#16).Inv ∧ ∃ t, step ((at_ 0xF055 [(0, 7#8)]).setI 0xFFF#16) = .next t ∧
      t.mem.byteAt 0xFFF ≠ ((at_ 0xF055 [(0, 7#8)]).setI 0xFFF#16).mem.byteAt 0xFFF) :=
  ⟨⟨inv_of (by decide), _, rfl, by decide⟩, ⟨inv_of (by decide), _, rfl, by decide⟩⟩

theorem witness_OnlyClearAndDrawWriteTheDisplay :
    (∃ t, step ((at_ 0x00E0 []).setDisp (onePixel 0 0)) = .next t ∧ t.disp ≠ ((at_ 0x00E0 []).setDisp (onePixel 0 0)).disp) ∧
    (∃ t, step (at_ 0xD011 []) = .next t ∧ t.disp ≠ (at_ 0xD011 []).disp) ∧ HostOp.tick ≠ HostOp.step :=
  ⟨⟨_, rfl, by decide⟩, ⟨_, rfl, by decide⟩, by decide⟩

theorem witness_OnlyCallPushesAndOnlyReturnPops :
    (∃ t, step (at_ 0x2ABC []) = .next t ∧ t.stack ≠ (at_ 0x2ABC []).stack) ∧
    (∃ t, step ((at_ 0x00EE []).setStack [0x206#16]) = .next t ∧ t.stack ≠ ((at_ 0x00EE []).setStack [0x206#16]).stack) :=
  ⟨⟨_, rfl, by decide⟩, ⟨_, rfl, by decide⟩⟩

theorem witness_OnlyIndexInstructionsWriteI :
    (∃ t, step (at_ 0xA300 []) = .next t ∧ t.i ≠ (at_ 0xA300 []).i) ∧
    (∃ t, step (at_ 0xF21E [(2, 1#8)]) = .next t ∧ t.i ≠ (at_ 0xF21E [(2, 1#8)]).i) ∧
    (∃ t, step (at_ 0xF229 [(2, 1#8)]) = .next t ∧ t.i ≠ (at_ 0xF229 [(2, 1#8)]).i) :=
  ⟨⟨_, rfl, by decide⟩, ⟨_, rfl, by decide⟩, ⟨_, rfl, by decide⟩⟩

theorem witness_OnlyKeyWaitChangesTheMode :
    (∃ t, step (at_ 0xF30A []) = .next t ∧ t.mode ≠ (at_ 0xF30A []).mode) ∧
    (∃ t, step (waiting.setKey 0 true) = .next t ∧ t.mode ≠ (waiting.setKey 0 true).mode) :=
  ⟨⟨_, rfl, by decide⟩, ⟨_, rfl, by decide⟩⟩

theorem witness_RegistersChangeOnlyAsDestinations :
    (∃ t, step (at_ 0x8014 [(0, 0xFF#8), (1, 1#8)]) = .next t ∧ t.getV 15 ≠ (at_ 0x8014 [(0, 0xFF#8), (1, 1#8)]).getV 15) ∧
    (∃ t, step (waiting.setKey 9 true) = .next t ∧ t.getV 3 ≠ (waiting.setKey 9 true).getV 3) :=
  ⟨⟨_, rfl, by decide⟩, ⟨_, rfl, by decide⟩⟩

theorem witness_SoundTimerNeverInfluencesAStep : (∃ t, step (at_ 0xF318 []) = .next t) ∧
    step (at_ 0x00EE []) = .fault (.stackUnderflow 0x200#16) := ⟨⟨_, rfl⟩, rfl⟩

/-- A state with memory listed and a full stack, and its store. -/
theorem witness_EveryStepKeepsTheInvariant :
    (((at_ 0xF055 [(0, 7#8)]).setStack (List.replicate 16 0x202#16)).Inv ∧
      ∃ t, step ((at_ 0xF055 [(0, 7#8)]).setStack (List.replicate 16 0x202#16)) = .next t) :=
  ⟨inv_of (by decide), _, rfl⟩

theorem witness_EveryHostScheduleKeepsTheInvariant : (at_ 0x2200 []).Inv := inv_of (by decide)

/-- Parameters of the full lengths. -/
def fullReset : ResetParams := { defaultReset with mem := List.replicate 4016 0xFF#8 }

theorem witness_ResetInstallsItsParameters : fullReset.font.length = 80 ∧ fullReset.mem.length = 4016 :=
  ⟨rfl, List.length_replicate⟩

theorem witness_MemoriesThatReadAlikeAreEqual : (bytes 0x200 [1#8, 2#8]).wf = true ∧
    (Memory.write (bytes 0x201 [2#8]) 0x200 1#8).wf = true ∧
    ∀ a, (bytes 0x200 [1#8, 2#8]).byteAt a = (Memory.write (bytes 0x201 [2#8]) 0x200 1#8).byteAt a :=
  ⟨by decide, by decide, fun _ => rfl⟩

theorem witness_CallPushesTheNextAddressOrOverflows :
    (State.reset.setStack (List.replicate 15 0#16)).stack.length < (State.reset.setStack (List.replicate 15 0#16)).cfg.stackDepth ∧
    (State.reset.setStack (List.replicate 16 0#16)).stack.length =
      (State.reset.setStack (List.replicate 16 0#16)).cfg.stackDepth := by decide

theorem witness_ReturnPopsPcOrUnderflows : (State.reset.setStack [0x206#16]).stack = 0x206#16 :: [] ∧
    State.reset.stack = [] := by decide

theorem witness_CallThenReturnComesBack :
    let s := (at_ 0x2FFE []).setMem (Memory.write (at_ 0x2FFE []).mem 0xFFF 0xEE#8)
    s.nextInstr = some (.call 0xFFE#12) ∧ s.stack.length < s.cfg.stackDepth ∧ (0xFFE#12 : Addr12).toNat + 1 < 4096 ∧
      s.mem.byteAt (0xFFE#12 : Addr12).toNat = 0x00#8 ∧ s.mem.byteAt ((0xFFE#12 : Addr12).toNat + 1) = 0xEE#8 := by decide

/-- The three clauses of `HoldsFlagAndResult`, which the statements of 8xy4 to 8xy7 and 8xyE share. -/
theorem witness_HoldsFlagAndResult : (14 : Reg) ≠ Reg.vf ∧ (15 : Reg) = Reg.vf ∧
    State.reset.cfg.flagOrder = .flagThenResult ∧
    (State.resetWith { defaultReset with cfg := { flagOrder := .resultThenFlag, stackDepth := 16 } }).cfg.flagOrder =
      .resultThenFlag := by decide

/-- Both clauses of `SkipsWhen` for a byte and for a register. -/
theorem witness_ByteSkipsCompareVxWithTheImmediate : (start [(3, 0xFF#8)]).getV 3 = 0xFF#8 ∧
    (start [(3, 0xFF#8)]).getV 3 ≠ 0xFE#8 ∧ (start [(3, 0xFF#8)]).getV 4 ≠ (start [(3, 0xFF#8)]).getV 3 := by decide

theorem witness_RegisterSkipsCompareVxWithVy : (0 < 1 ∧ 1 < 16) ∧ (0 < 15 ∧ 15 < 16) := by decide

theorem witness_BcdStoresThreeDigits : (State.reset.setI 0xFFD#16).Inv ∧ (State.reset.setI 0xFFD#16).i.toNat + 2 < 4096 :=
  ⟨inv_of (by decide), by decide⟩

theorem witness_RegisterStoreWritesV0ToVx : (State.reset.setI 0xFF0#16).Inv ∧
    (State.reset.setI 0xFF0#16).i.toNat + (15 : Reg).val < 4096 := ⟨inv_of (by decide), by decide⟩

theorem witness_RegisterLoadReadsV0ToVx : (State.reset.setI 0xFF0#16).i.toNat + (15 : Reg).val < 4096 := by decide

theorem witness_StoreThenLoadRestoresTheRegisters : (State.reset.setI 0xFFF#16).Inv ∧
    (State.reset.setI 0xFFF#16).i.toNat + (0 : Reg).val < 4096 := ⟨inv_of (by decide), by decide⟩

theorem witness_TransfersBeyondMemoryFault : 4096 ≤ (State.reset.setI 0xFFE#16).i.toNat + 2 ∧
    4096 ≤ (State.reset.setI 0xFF1#16).i.toNat + (15 : Reg).val ∧ 0 < (3 : RowCount).val ∧
    4096 ≤ (State.reset.setI 0xFFE#16).i.toNat + (3 : RowCount).val - 1 := by decide

/-- No byte with I out of memory; the last byte of memory; a collision; no collision. -/
theorem witness_DrawInvertsExactlyTheCoveredPixels : ((0 : RowCount).val = 0 ∨ (0xFFFF#16).toNat + (0 : RowCount).val ≤ 4096) ∧
    ((15 : RowCount).val = 0 ∨ (0xFF1#16).toNat + (15 : RowCount).val ≤ 4096) ∧
    (let s := State.reset.setDisp (onePixel 0 0)
     s.pixel 0 0 = true ∧ SpriteCovers s 0 1 1 0 0) ∧
    ¬ ∃ px < 64, ∃ py < 32, State.reset.pixel px py = true ∧ SpriteCovers State.reset 0 1 1 px py := by
  refine ⟨by decide, by decide, ⟨by decide, 0, by decide, 0, by decide, by decide, by decide, by decide⟩, ?_⟩
  rintro ⟨px, -, py, -, h, -⟩
  rw [State.pixel, show State.reset.disp = Display.clear from rfl, Display.pixel_clear] at h
  cases h

/-- Coordinates apart from VF; and VF as both, where the first draw leaves it as it was. -/
theorem witness_DrawingTwiceRestoresTheDisplay : ((0 : Reg) ≠ Reg.vf ∧ (14 : Reg) ≠ Reg.vf) ∧
    ((15 : RowCount).val = 0 ∨ (State.reset.setI 0xFF1#16).i.toNat + (15 : RowCount).val ≤ 4096) ∧
    ∃ t, exec (.drw Reg.vf Reg.vf 1) State.reset = .next t ∧ t.getV Reg.vf = State.reset.getV Reg.vf :=
  ⟨by decide, by decide, _, rfl, by decide⟩

theorem witness_KeySkipsAskTheNamedKey : ((start [(3, 15#8)]).getV 3).toNat = (15 : Key).val ∧
    16 ≤ ((start [(3, 16#8)]).getV 3).toNat := by decide

theorem witness_KeyWaitTakesTheLowestKeyOrWaits : (keysPressed 0#8 [15]).isPressed 15 = true ∧
    (∀ j < 15, (keysPressed 0#8 [15]).isPressed j = false) ∧ (∀ k, State.reset.isPressed k = false) := by decide

theorem witness_SetKeyWritesOneKeyAlone : (0 : Key) ≠ 15 ∧ State.reset.firstPressed = none ∧
    (keysPressed 0#8 [15]).firstPressed = some 15 := by decide

theorem witness_LoadProgramFillsTheProgramAreaOrRefuses : State.reset.Inv ∧ (List.replicate 3584 (0#8 : Byte)).length ≤ 3584 ∧
    3584 < (List.replicate 3585 (0#8 : Byte)).length :=
  ⟨inv_of (by decide), by rw [List.length_replicate], by rw [List.length_replicate]; omega⟩

end Sys2Proof.Tests
end

section
/-! SUPPORT. The state (spec/10_state.md): what an instruction that goes on can do to the state, said once, and from it
which step may write which part of the state, the invariant, reset, and the sound timer. -/

namespace Sys2Proof.Machine

/-! ## What an instruction can do -/

/-- The effects an instruction can have when it goes on: the part of the state it writes besides PC, one constructor for
each. `exec_effect` ties it to `exec`. -/
inductive Effect (s : State) : Instr → State → Prop
  /-- Jumps and skips, taken or not: PC alone (41_control_flow.md, 45_keypad_timers.md R220, R221). -/
  | branch {i : Instr} (w : Word) : Effect s i (s.setPc w)
  /-- 00EE (41_control_flow.md R130). -/
  | pop {a : Word} {rest : List Word} (h : s.stack = a :: rest) : Effect s .ret ((s.setStack rest).setPc a)
  /-- 2nnn (41_control_flow.md R132). -/
  | push (nnn : Addr12) (h : s.stack.length < s.cfg.stackDepth) :
      Effect s (.call nnn) ((s.setStack (s.nextPc :: s.stack)).setPc (addressOf nnn))
  /-- Register loads and the ALU, Fx07, Fx65, and Fx0A when it finds a key: the registers the instruction may write. -/
  | regs {i : Instr} (v : Vector Byte 16) (h : ∀ r, ¬ Instr.mayWrite i r → v.get r = s.getV r) :
      Effect s i (s.setRegs v).advance
  /-- Cxnn, which also consumes a random byte (42_alu.md R163). -/
  | random (x : Reg) (nn b : Byte) : Effect s (.rnd x nn) (s.setV x b).nextDraw.advance
  /-- 00E0 (44_display.md R201). -/
  | clear : Effect s .cls (s.setDisp Display.clear).advance
  /-- Dxyn (44_display.md R202, R204). -/
  | draw (x y : Reg) (n : RowCount) (d : Display) (flag : Byte) :
      Effect s (.drw x y n) ((s.setDisp d).setV Reg.vf flag).advance
  /-- Annn, Fx1E and Fx29 (10_state.md R26). -/
  | index {i : Instr} (w : Word) (h : (∃ nnn, i = .ldINnn nnn) ∨ ∃ x, i = .addIVx x ∨ i = .ldFVx x) :
      Effect s i (s.setI w).advance
  /-- Fx15 (45_keypad_timers.md R225). -/
  | delay (x : Reg) : Effect s (.ldDtVx x) (s.setDt (s.getV x)).advance
  /-- Fx18 (45_keypad_timers.md R226). -/
  | sound (x : Reg) : Effect s (.ldStVx x) (s.setSt (s.getV x)).advance
  /-- Fx33 (43_index_memory.md R183). -/
  | storeDigits (x : Reg) (h : s.i.toNat + 3 ≤ 4096) :
      Effect s (.ldBVx x) (s.setMem (s.mem.writeBytes s.i.toNat (decimalDigits (s.getV x)))).advance
  /-- Fx55 (43_index_memory.md R184). -/
  | storeRegs (x : Reg) (h : s.i.toNat + (x.val + 1) ≤ 4096) :
      Effect s (.ldMemVx x) (s.setMem (s.mem.writeBytes s.i.toNat (s.regsUpTo x))).advance
  /-- Fx0A with no key pressed (45_keypad_timers.md R224). -/
  | wait (x : Reg) (h : s.firstPressed = none) : Effect s (.ldVxK x) (s.setMode (.awaitingKey x))

section
variable {s t : State} {i : Instr}

/-- A write of one destination. -/
theorem Effect.setV {x : Reg} {b : Byte} (hx : Instr.mayWrite i x) : Effect s i (s.setV x b).advance :=
  .regs (s.setV x b).v fun _ hr => s.getV_setV_other b fun e => hr (e ▸ hx)

/-- A write of a flag and a result (42_alu.md R151). -/
theorem Effect.writeFlagAndResult {x : Reg} {flag result : Byte} (hx : Instr.mayWrite i x)
    (hf : Instr.mayWrite i Reg.vf) : Effect s i (s.writeFlagAndResult x flag result).advance := by
  obtain ⟨v, e, -⟩ := s.writeFlagAndResult_eq x flag result
  rw [e]
  refine .regs v fun r hr => ?_
  rw [← s.getV_setRegs v r, ← e]
  exact s.writeFlagAndResult_getV_other x flag result (fun h => hr (h ▸ hx)) (fun h => hr (h ▸ hf))

/-- The registers that Fx65 loads are V0 to Vx. -/
theorem Effect.regsLoaded (x : Reg) : Effect s (.ldVxMem x) (s.setRegs (s.regsLoaded x)).advance :=
  .regs _ fun r hr => (s.get_regsLoaded x r).trans (if_neg hr)

/-- An instruction that goes on has one of the effects. -/
theorem exec_effect (h : exec i s = .next t) : Effect s i t := by
  cases i with
  | cls => cases h; exact .clear
  | ret => obtain ⟨a, rest, hs, rfl⟩ := exec_ret_next.1 h; exact .pop hs
  | call nnn => obtain ⟨hs, rfl⟩ := exec_call_next.1 h; exact .push nnn hs
  | jp nnn | jpV0 nnn => cases h; exact .branch _
  | seVxNn x nn | sneVxNn x nn | seVxVy x y | sneVxVy x y => cases h; exact .branch _
  | skp x | sknp x => obtain ⟨k, -, rfl⟩ := State.keySkip_next.1 h; exact .branch _
  | ldVxNn x nn | addVxNn x nn | ldVxVy x y | orVxVy x y | andVxVy x y | xorVxVy x y | ldVxDt x =>
    cases h; exact .setV rfl
  | addVxVy x y | sub x y | subn x y | shr x | shl x =>
    cases h; exact .writeFlagAndResult (.inl rfl) (.inr rfl)
  | rnd x nn => cases h; exact .random x nn _
  | drw x y n => obtain ⟨-, rfl⟩ := exec_drw_next.1 h; exact .draw x y n _ _
  | ldINnn nnn => cases h; exact .index _ (.inl ⟨nnn, rfl⟩)
  | addIVx x => cases h; exact .index _ (.inr ⟨x, .inl rfl⟩)
  | ldFVx x => cases h; exact .index _ (.inr ⟨x, .inr rfl⟩)
  | ldVxK x =>
    obtain ⟨hk, rfl⟩ | ⟨k, -, rfl⟩ := exec_ldVxK_next.1 h
    · exact .wait x hk
    · exact .setV rfl
  | ldDtVx x => cases h; exact .delay x
  | ldStVx x => cases h; exact .sound x
  | ldBVx x => obtain ⟨hr, rfl⟩ := exec_ldBVx_next.1 h; exact .storeDigits x hr
  | ldMemVx x => obtain ⟨hr, rfl⟩ := exec_ldMemVx_next.1 h; exact .storeRegs x hr
  | ldVxMem x => obtain ⟨-, rfl⟩ := exec_ldVxMem_next.1 h; exact .regsLoaded x

/-- A step that goes on has the effect of its instruction, or, when it runs none, writes registers, PC and the mode alone
(40_engine.md R111, R115). -/
theorem step_effect (h : step s = .next t) :
    (∃ i, s.nextInstr = some i ∧ Effect s i t) ∨ ∃ v w m, t = ((s.setRegs v).setPc w).setMode m := by
  obtain ⟨x, -, -, rfl⟩ | ⟨x, k, -, -, rfl⟩ | ⟨-, w, e, -, -, rfl⟩ | ⟨i, hi, he⟩ := step_next_cases h
  · exact .inr ⟨t.v, t.pc, t.mode, rfl⟩
  · exact .inr ⟨(s.takeKey x k).v, s.nextPc, .running, rfl⟩
  · exact .inr ⟨s.v, s.nextPc, s.mode, rfl⟩
  · exact .inl ⟨i, hi, exec_effect he⟩

/-! ## The invariant -/

/-- No effect breaks the invariant: memory is written by `writeBytes` alone, and a push is below the bound. -/
theorem Effect.keeps_inv (he : Effect s i t) (hs : s.Inv) : t.Inv := by
  obtain ⟨hmem, hstack⟩ := hs
  cases he with
  | pop h =>
    rw [h, List.length_cons] at hstack
    exact ⟨hmem, Nat.le_of_succ_le hstack⟩
  | push nnn h => exact ⟨hmem, h⟩
  | storeDigits x h => exact ⟨Memory.wf_writeBytes hmem _ _, hstack⟩
  | storeRegs x h => exact ⟨Memory.wf_writeBytes hmem _ _, hstack⟩
  | _ => exact ⟨hmem, hstack⟩

end

/-- Settles O22: by the effect of the step. -/
theorem everyStepKeepsTheInvariant : Obligations.EveryStepKeepsTheInvariant := by
  intro s t hs h
  obtain ⟨i, -, he⟩ | ⟨v, w, m, rfl⟩ := step_effect h
  · exact he.keeps_inv hs
  · exact hs

/-- Settles O23: no cell is listed and no return address is on the stack. -/
theorem resetMeetsTheInvariant : Obligations.ResetMeetsTheInvariant :=
  ⟨rfl, Nat.zero_le _⟩

/-! ## Which instructions write which part -/

section
variable {s t : State} {i : Instr}

theorem Effect.stack_changed (he : Effect s i t) (hne : t.stack ≠ s.stack) :
    (∃ nnn, i = .call nnn ∧ t.stack = s.nextPc :: s.stack) ∨ (i = .ret ∧ s.stack = t.pc :: t.stack) := by
  cases he with
  | pop h => exact .inr ⟨rfl, h⟩
  | push nnn h => exact .inl ⟨nnn, rfl, rfl⟩
  | _ => exact absurd rfl hne

theorem Effect.index_changed (he : Effect s i t) (hne : t.i ≠ s.i) :
    (∃ nnn, i = .ldINnn nnn) ∨ ∃ x, i = .addIVx x ∨ i = .ldFVx x := by
  cases he with
  | index w h => exact h
  | _ => exact absurd rfl hne

theorem Effect.mode_changed (he : Effect s i t) (hne : t.mode ≠ s.mode) :
    ∃ x, i = .ldVxK x ∧ t.mode = .awaitingKey x ∧ s.firstPressed = none := by
  cases he with
  | wait x h => exact ⟨x, rfl, rfl, h⟩
  | _ => exact absurd rfl hne

theorem Effect.getV_kept (he : Effect s i t) {r : Reg} (hr : ¬ Instr.mayWrite i r) : t.getV r = s.getV r := by
  cases he with
  | regs v h => exact h r hr
  | random x nn b => exact s.getV_setV_other b hr
  | draw x y n d flag => exact (s.setDisp d).getV_setV_other flag hr
  | _ => rfl

end

/-- Settles O17: by the effect of the step. -/
theorem onlyCallPushesAndOnlyReturnPops : Obligations.OnlyCallPushesAndOnlyReturnPops := by
  intro s t h hne
  obtain ⟨i, hi, he⟩ | ⟨v, w, m, rfl⟩ := step_effect h
  · obtain ⟨nnn, rfl, hpush⟩ | ⟨rfl, hpop⟩ := he.stack_changed hne
    · exact .inl ⟨nnn, hi, hpush⟩
    · exact .inr ⟨hi, hpop⟩
  · exact absurd rfl hne

/-- Settles O18: by the effect of the step. -/
theorem onlyIndexInstructionsWriteI : Obligations.OnlyIndexInstructionsWriteI := by
  intro s t h hne
  obtain ⟨i, hi, he⟩ | ⟨v, w, m, rfl⟩ := step_effect h
  · obtain ⟨nnn, rfl⟩ | ⟨x, rfl | rfl⟩ := he.index_changed hne
    · exact .inl ⟨nnn, hi⟩
    · exact .inr ⟨x, .inl hi⟩
    · exact .inr ⟨x, .inr hi⟩
  · exact absurd rfl hne

/-- Settles O19: the wait is entered by the effect of Fx0A, and left by the waiting step that finds a key. -/
theorem onlyKeyWaitChangesTheMode : Obligations.OnlyKeyWaitChangesTheMode := by
  intro s t h hne
  obtain ⟨x, -, -, rfl⟩ | ⟨x, k, hm, hk, rfl⟩ | ⟨-, w, e, -, -, rfl⟩ | ⟨i, hi, he⟩ := step_next_cases h
  · exact absurd rfl hne
  · exact .inr ⟨x, k, hm, rfl, (State.firstPressed_some.1 hk).1⟩
  · exact absurd rfl hne
  · obtain ⟨x, rfl, hmode, hk⟩ := (exec_effect he).mode_changed hne
    exact .inl ⟨x, hi, hmode, State.firstPressed_none.1 hk⟩

/-- Settles O20: an effect keeps every register its instruction may not write, and a key goes to the waiting register. -/
theorem registersChangeOnlyAsDestinations : Obligations.RegistersChangeOnlyAsDestinations := by
  intro s t r h hne
  obtain ⟨x, -, -, rfl⟩ | ⟨x, k, hm, -, rfl⟩ | ⟨-, w, e, -, -, rfl⟩ | ⟨i, hi, he⟩ := step_next_cases h
  · exact absurd rfl hne
  · obtain rfl : r = x := by_contra fun hr => hne (s.getV_setV_other (keyByte k) hr)
    exact .inr hm
  · exact absurd rfl hne
  · exact .inl ⟨i, hi, by_contra fun hr => hne ((exec_effect he).getV_kept hr)⟩

/-! ## Reset (10_state.md R35) -/

section
variable {p : ResetParams} (hfont : p.font.length = 80) (hmem : p.mem.length = 4016)
include hfont hmem

/-- Parameters of full length are installed whole. -/
theorem State.resetWith_mem :
    (State.resetWith p).mem = Memory.writeBytes (Memory.writeBytes [] 0x050 p.mem) 0x000 p.font := by
  simp only [State.resetWith, List.take_of_length_le hmem.le, List.take_of_length_le hfont.le]

theorem State.byteAt_resetWith_font (k : Nat) (h : k < p.font.length) : (State.resetWith p).mem.byteAt k = p.font[k] := by
  rw [State.resetWith_mem hfont hmem]
  simpa using Memory.byteAt_writeBytes_inside (Memory.wf_writeBytes (m := []) rfl 0x050 p.mem) (a := 0)
    (by simp [hfont, Config.memSize]) h

/-- The font ends where INIT_MEM begins. -/
theorem State.byteAt_resetWith_mem (k : Nat) (h : k < p.mem.length) :
    (State.resetWith p).mem.byteAt (0x050 + k) = p.mem[k] := by
  rw [State.resetWith_mem hfont hmem, Memory.byteAt_writeBytes_outside (Memory.wf_writeBytes rfl 0x050 p.mem)
    (by simp [hfont, Config.memSize]) (.inr (by omega))]
  exact Memory.byteAt_writeBytes_inside rfl (by simp [hmem, Config.memSize]) h

end

theorem State.resetWith_inv (p : ResetParams) : (State.resetWith p).Inv :=
  ⟨Memory.wf_writeBytes (Memory.wf_writeBytes rfl _ _) _ _, Nat.zero_le _⟩

theorem State.isPressed_resetWith (p : ResetParams) (k : Key) : (State.resetWith p).isPressed k = false := by
  simp [State.isPressed, State.resetWith, Vector.get_eq_getElem]

/-- Settles O25: memory by the laws of runs of bytes, the rest by what reset is. -/
theorem resetInstallsItsParameters : Obligations.ResetInstallsItsParameters :=
  fun p hfont hmem =>
    ⟨State.byteAt_resetWith_font hfont hmem, State.byteAt_resetWith_mem hfont hmem, fun _ => rfl, rfl, rfl, rfl, rfl, rfl,
      rfl, Display.pixel_clear, State.isPressed_resetWith p, rfl, State.resetWith_inv p⟩

/-! ## The sound timer is never read (10_state.md R28) -/

/-- An outcome with ST replaced in its next state. -/
def withSt (c : Byte) : Outcome → Outcome
  | .next t => .next (t.setSt c)
  | .fault f => .fault f
  | .refused r => .refused r

section
variable (s : State) (b : Byte)

theorem State.transfer_setSt {n : Nat} {d d' : State} (hd : d' = d.setSt b) :
    (s.setSt b).transfer n d' = withSt b (s.transfer n d) := by
  subst hd
  obtain ⟨hr, e⟩ | ⟨h0, h, e⟩ := State.transfer_cases s d n
  · rw [e]; exact State.transfer_inRange hr
  · rw [e]; exact State.transfer_outOfRange h0 h

theorem State.keySkip_setSt (vx : Byte) (cond : Key → Bool) :
    (s.setSt b).keySkip vx cond = withSt b (s.keySkip vx cond) := by
  unfold State.keySkip
  cases keyOf vx <;> rfl

theorem State.writeFlagAndResult_setSt (x : Reg) (flag result : Byte) :
    (s.setSt b).writeFlagAndResult x flag result = (s.writeFlagAndResult x flag result).setSt b := by
  unfold State.writeFlagAndResult
  rw [State.setSt_cfg]
  cases s.cfg.flagOrder <;> rfl

/-- An instruction does the same under another ST, which then stands in the next state unless Fx18 has replaced it. -/
theorem exec_setSt (i : Instr) : ∃ c, exec i (s.setSt b) = withSt c (exec i s) := by
  cases i with
  | ldStVx x => exact ⟨s.getV x, rfl⟩
  | ret =>
    refine ⟨b, ?_⟩
    simp only [exec, execRet, State.setSt_stack]
    cases s.stack <;> rfl
  | call nnn =>
    refine ⟨b, ?_⟩
    simp only [exec, execCall, apply_ite (withSt b)]
    rfl
  | ldVxK x =>
    refine ⟨b, ?_⟩
    simp only [exec, execLdVxK, State.setSt_firstPressed]
    cases s.firstPressed <;> rfl
  | skp x | sknp x => exact ⟨b, s.keySkip_setSt b _ _⟩
  | drw x y n | ldBVx x | ldMemVx x | ldVxMem x => exact ⟨b, s.transfer_setSt b rfl⟩
  | addVxVy x y | sub x y | subn x y | shr x | shl x =>
    exact ⟨b, congrArg (fun u : State => (.next u.advance : Outcome)) (s.writeFlagAndResult_setSt b x _ _)⟩
  | _ => exact ⟨b, rfl⟩

/-- So does a step. -/
theorem step_setSt : ∃ c, step (s.setSt b) = withSt c (step s) := by
  cases hm : s.mode with
  | awaitingKey x =>
    cases hk : s.firstPressed with
    | none => exact ⟨b, by rw [step_waiting hm hk, step_waiting (s := s.setSt b) hm hk]; rfl⟩
    | some k => exact ⟨b, by rw [step_keyArrives hm hk, step_keyArrives (s := s.setSt b) hm hk]; rfl⟩
  | running =>
    cases hf : s.fetchWord with
    | error f => exact ⟨b, by rw [step_fetchFault hm hf, step_fetchFault (s := s.setSt b) hm hf]; rfl⟩
    | ok w =>
      cases hd : decode w with
      | error e => exact ⟨b, by rw [step_unknown hm hf hd, step_unknown (s := s.setSt b) hm hf hd]; rfl⟩
      | ok i =>
        rw [step_running hm hf hd, step_running (s := s.setSt b) hm hf hd]
        exact exec_setSt s b i

theorem State.setSt_onlyChanges : OnlyChanges [.soundTimer] s (s.setSt b) := by
  intro p hp
  cases p with
  | soundTimer => exact absurd (List.mem_singleton_self _) hp
  | memory | regs | keypad => exact fun _ => rfl
  | display => exact fun _ _ => rfl
  | _ => rfl

end

/-- Settles O21: the step under another ST is the same step with ST replaced. -/
theorem soundTimerNeverInfluencesAStep : Obligations.SoundTimerNeverInfluencesAStep := by
  intro s b
  obtain ⟨c, hc⟩ := step_setSt s b
  refine ⟨fun t h => ⟨t.setSt c, ?_, t.setSt_onlyChanges c⟩, fun f h => ?_⟩
  · rw [hc, h]; rfl
  · rw [hc, h]; rfl

end Sys2Proof.Machine
end

section
/-! SUPPORT. Memory (spec/20_memory.md): the canonical form is canonical, which step may write which byte, and load_program. -/

namespace Sys2Proof.Machine

/-! ## Equal reads, equal data (20_memory.md R50; log 4) -/

section
variable {m m' : Memory} {c : Host.Cell} {lo : Nat}

@[simp] theorem Memory.byteAt_cons_head (c : Host.Cell) (m : Memory) : Memory.byteAt (c :: m) c.1 = c.2 := by
  simp [Memory.byteAt]

theorem Memory.byteAt_cons_above {a : Nat} (ha : c.1 < a) (m : Memory) : Memory.byteAt (c :: m) a = m.byteAt a := by
  rw [Memory.byteAt, if_neg (by omega), if_neg (by omega)]

/-- A listed cell is visible: a memory that reads alike cannot begin above it. -/
theorem Memory.lo_le_head (h : Memory.wfFrom lo (c :: m) = true) {lo' : Nat} (h' : Memory.wfFrom lo' m' = true)
    (hr : ∀ a, Memory.byteAt (c :: m) a = m'.byteAt a) : lo' ≤ c.1 := by
  by_contra hlt
  obtain ⟨-, -, hvis, -⟩ := Memory.wfFrom_cons.1 h
  rw [← Memory.byteAt_cons_head c m, hr, Memory.byteAt_below h' (by omega)] at hvis
  exact hvis rfl

/-- Below and at the head's address both tails read as unlisted; above it they read as the whole lists. -/
theorem Memory.tails_read_alike {b b' : Byte} {a₀ : Nat} (h : Memory.wfFrom (a₀ + 1) m = true)
    (h' : Memory.wfFrom (a₀ + 1) m' = true)
    (hr : ∀ a, Memory.byteAt ((a₀, b) :: m) a = Memory.byteAt ((a₀, b') :: m') a) (a : Nat) :
    m.byteAt a = m'.byteAt a := by
  rcases Nat.lt_or_ge a₀ a with ha | ha
  · rw [← Memory.byteAt_cons_above (c := (a₀, b)) ha m, hr, Memory.byteAt_cons_above ha]
  · rw [Memory.byteAt_below h (by omega), Memory.byteAt_below h' (by omega)]

theorem Memory.ext_byteAt (h : Memory.wfFrom lo m = true) (h' : Memory.wfFrom lo m' = true)
    (hr : ∀ a, m.byteAt a = m'.byteAt a) : m = m' := by
  induction m generalizing m' lo with
  | nil =>
    cases m' with
    | nil => rfl
    | cons c' m' => exact absurd (Memory.lo_le_head (lo' := c'.1 + 1) (m' := []) h' rfl fun a => (hr a).symm) (by omega)
  | cons c m ih =>
    obtain ⟨a, b⟩ := c
    obtain ⟨-, ha, hb, hm⟩ := Memory.wfFrom_cons.1 h
    cases m' with
    | nil => exact absurd (Memory.lo_le_head (lo' := a + 1) (m' := []) h rfl hr) (by simp)
    | cons c' m' =>
      obtain ⟨a', b'⟩ := c'
      obtain ⟨-, ha', hb', hm'⟩ := Memory.wfFrom_cons.1 h'
      have hle : a' ≤ a := Memory.lo_le_head h (Memory.wfFrom_cons.2 ⟨le_rfl, ha', hb', hm'⟩) hr
      have hge : a ≤ a' := Memory.lo_le_head h' (Memory.wfFrom_cons.2 ⟨le_rfl, ha, hb, hm⟩) fun k => (hr k).symm
      obtain rfl := Nat.le_antisymm hge hle
      obtain rfl : b = b' := by simpa [Memory.byteAt] using hr a
      rw [ih hm hm' (Memory.tails_read_alike hm hm' hr)]

end

/-- Settles O26: by induction on the two lists, whose heads are visible and whose tails read alike. -/
theorem memoriesThatReadAlikeAreEqual : Obligations.MemoriesThatReadAlikeAreEqual :=
  fun _ _ h h' hr => Memory.ext_byteAt h h' hr

/-! ## Which instructions write which byte (20_memory.md R55) -/

theorem Memory.changed_by_writeBytes {m : Memory} (h : m.wf = true) {a a' : Nat} {bs : List Byte}
    (hr : a + bs.length ≤ Config.memSize) (hne : (m.writeBytes a bs).byteAt a' ≠ m.byteAt a') :
    a ≤ a' ∧ a' < a + bs.length := by
  by_contra hout
  exact hne (Memory.byteAt_writeBytes_outside h hr (by omega))

theorem Effect.byteAt_changed {s t : State} {i : Instr} (he : Effect s i t) (hs : s.mem.wf = true) {a : Nat}
    (hne : t.mem.byteAt a ≠ s.mem.byteAt a) :
    ∃ x, (i = .ldBVx x ∧ s.i.toNat ≤ a ∧ a ≤ s.i.toNat + 2) ∨
      (i = .ldMemVx x ∧ s.i.toNat ≤ a ∧ a ≤ s.i.toNat + x.val) := by
  cases he with
  | storeDigits x h =>
    obtain ⟨hlo, hhi⟩ := Memory.changed_by_writeBytes hs (bs := decimalDigits (s.getV x)) h hne
    rw [length_decimalDigits] at hhi
    exact ⟨x, .inl ⟨rfl, hlo, by omega⟩⟩
  | storeRegs x h =>
    obtain ⟨hlo, hhi⟩ := Memory.changed_by_writeBytes hs (by rw [State.length_regsUpTo]; exact h) hne
    rw [State.length_regsUpTo] at hhi
    exact ⟨x, .inr ⟨rfl, hlo, by omega⟩⟩
  | _ => exact absurd rfl hne

/-- Settles O15: by the effect of the step. -/
theorem onlyBcdAndRegisterStoresWriteMemory : Obligations.OnlyBcdAndRegisterStoresWriteMemory := by
  rintro s t a ⟨hmem, -⟩ h hne
  obtain ⟨i, hi, he⟩ | ⟨v, w, m, rfl⟩ := step_effect h
  · obtain ⟨x, ⟨rfl, ha⟩ | ⟨rfl, ha⟩⟩ := he.byteAt_changed hmem hne
    · exact ⟨x, .inl ⟨hi, ha⟩⟩
    · exact ⟨x, .inr ⟨hi, ha⟩⟩
  · exact absurd rfl hne

/-! ## load_program (20_memory.md R60, R61; log 22) -/

section
variable (s : State)

theorem State.setMem_onlyChanges (m : Memory) : OnlyChanges [.memory] s (s.setMem m) := by
  intro p hp
  cases p with
  | memory => exact absurd (List.mem_singleton_self _) hp
  | regs | keypad => exact fun _ => rfl
  | display => exact fun _ _ => rfl
  | _ => rfl

variable {bs : List Byte}

theorem runHostOp_loadProgram_fits (h : bs.length ≤ 3584) :
    runHostOp s (.loadProgram bs) = (s.setMem (s.mem.writeBytes Config.programBase bs), .ok) := by
  simp [runHostOp, loadProgram, imageWellFormed, h, settle]

theorem runHostOp_loadProgram_tooLong (h : 3584 < bs.length) :
    runHostOp s (.loadProgram bs) = (s, .fault (.capacityExceeded bs.length)) := by
  simp [runHostOp, loadProgram, imageWellFormed, Nat.not_le.2 h, raise, settle]

end

/-- Settles O59: 3584 bytes from 0x200 on end at the last address, so the laws of runs of bytes apply. -/
theorem loadProgramFillsTheProgramAreaOrRefuses : Obligations.LoadProgramFillsTheProgramAreaOrRefuses := by
  rintro bs s ⟨hmem, -⟩
  refine ⟨fun hfit => ?_, runHostOp_loadProgram_tooLong s⟩
  have hr : Config.programBase + bs.length ≤ Config.memSize := Nat.add_le_add_left hfit 0x200
  exact ⟨_, runHostOp_loadProgram_fits s hfit, fun _ hk => Memory.byteAt_writeBytes_inside hmem hr hk,
    fun _ ha => Memory.byteAt_writeBytes_outside hmem hr ha, s.setMem_onlyChanges _⟩

end Sys2Proof.Machine
end

section
/-! SUPPORT. The decoder (spec/30_encoding.md R85 to R88): the words of an instruction, what the decoder answers for every
word, and the opcode map's rows, of which at most one fits a word. -/

namespace Sys2Proof

/-! ## The words of an instruction (R88) -/

/-- The word of an instruction with the field `y` that its format leaves free: SHR and SHL alone have one. -/
def encodeWithY (y : Reg) : Instr → Word
  | .shr x => formatXYN 0x8#4 x y 0x6#4
  | .shl x => formatXYN 0x8#4 x y 0xE#4
  | i => encode i

/-- The encoder's word has `y = 0` (log 24). -/
theorem encodeWithY_zero (i : Instr) : encodeWithY 0 i = encode i := by
  cases i <;> rfl

theorem encodeWithY_eq_of_not_shift {i : Instr} (h : ¬ ∃ x, i = .shr x ∨ i = .shl x) (y : Reg) :
    encodeWithY y i = encode i := by
  cases i with
  | shr x => exact absurd ⟨x, .inl rfl⟩ h
  | shl x => exact absurd ⟨x, .inr rfl⟩ h
  | _ => rfl

theorem formatXYN_outsideY (op : BitVec 4) (x y : Reg) (n : BitVec 4) :
    formatXYN op x y n &&& 0xFF0F#16 = formatXYN op x 0 n := by
  rw [and_eq_iff_nibbles]
  simp only [opField_formatXYN, xField_formatXYN, yField_formatXYN, nField_formatXYN]
  exact ⟨BitVec.and_allOnes, BitVec.and_allOnes, BitVec.and_zero, BitVec.and_allOnes⟩

/-- Outside bits 7 to 4 all words of an instruction are the encoder's. -/
theorem encodeWithY_outsideY (y : Reg) (i : Instr) : encodeWithY y i &&& 0xFF0F#16 = encode i &&& 0xFF0F#16 := by
  cases i with
  | shr x | shl x => exact (formatXYN_outsideY _ x y _).trans (formatXYN_outsideY _ x 0 _).symm
  | _ => rfl

/-- Every word of an instruction decodes to it, by the family's selector field where it has one (R85). -/
theorem decode_encodeWithY (y : Reg) (i : Instr) : decode (encodeWithY y i) = .ok i := by
  cases i with
  | cls | ret => simp [encodeWithY, encode, decode, decodeFamily0, opField]
  | jp _ | call _ | ldINnn _ | jpV0 _ | seVxNn _ _ | sneVxNn _ _ | ldVxNn _ _ | addVxNn _ _ | rnd _ _ | drw _ _ _ =>
    simp [encodeWithY, encode, decode]
  | seVxVy _ _ => simp [encodeWithY, encode, decode, decodeFamily5]
  | sneVxVy _ _ => simp [encodeWithY, encode, decode, decodeFamily9]
  | ldVxVy _ _ | orVxVy _ _ | andVxVy _ _ | xorVxVy _ _ | addVxVy _ _ | sub _ _ | shr _ | subn _ _ | shl _ =>
    simp [encodeWithY, encode, decode, decodeFamily8]
  | skp _ | sknp _ => simp [encodeWithY, encode, decode, decodeFamilyE]
  | ldVxDt _ | ldVxK _ | ldDtVx _ | ldStVx _ | addIVx _ | ldFVx _ | ldBVx _ | ldMemVx _ | ldVxMem _ =>
    simp [encodeWithY, encode, decode, decodeFamilyF]

theorem decode_encode (i : Instr) : decode (encode i) = .ok i := by
  rw [← encodeWithY_zero, decode_encodeWithY]

/-! ## A word laid out again from its fields -/

section
variable {w : Word} {op : BitVec 4} (hop : opField w = op)
include hop

theorem formatA_of_op : formatA op (nnnField w) = w := by
  rw [← hop, formatA_fields]

theorem formatXK_of_op : formatXK op (xField w) (nnField w) = w := by
  rw [← hop, formatXK_fields]

theorem formatXS_of_op {nn : Byte} (hnn : nnField w = nn) : formatXK op (xField w) nn = w := by
  rw [← hnn, formatXK_of_op hop]

theorem formatXY_of_op {n : BitVec 4} (hn : nField w = n.toFin) : formatXYN op (xField w) (yField w) n = w := by
  obtain rfl : nibble (nField w) = n := congrArg nibble hn
  rw [← hop, formatXYN_fields]

end

/-! ## The rows of the opcode map (R86) -/

theorem opField_mask_of_mem : ∀ r ∈ opcodeMap, opField r.mask = BitVec.allOnes 4 := by decide

theorem OpcodeRow.opField_pat_of_fits {r : OpcodeRow} {w : Word} (hr : r ∈ opcodeMap) (h : r.fits w = true) :
    opField r.pat = opField w := by
  obtain ⟨hop, -⟩ := (OpcodeRow.fits_iff r w).1 h
  rw [← hop, opField_mask_of_mem r hr, BitVec.and_allOnes]

/-- Any two rows ask for different digits at a place that both compare. -/
theorem opcodeMap_conflict : opcodeMap.Pairwise fun r r' => r.pat &&& r'.mask ≠ r'.pat &&& r.mask := by decide

theorem OpcodeRow.agree_of_fits {r r' : OpcodeRow} {w : Word} (h : r.fits w = true) (h' : r'.fits w = true) :
    r.pat &&& r'.mask = r'.pat &&& r.mask := by
  rw [OpcodeRow.fits, beq_iff_eq] at h h'
  rw [← h, ← h', BitVec.and_assoc, BitVec.and_assoc, BitVec.and_comm r.mask]

theorem filter_eq_singleton_of_pairwise {α : Type} {p : α → Bool} {a : α} {l : List α}
    (hl : l.Pairwise fun b c => p b = true → p c = false) (ha : a ∈ l) (hp : p a = true) : l.filter p = [a] := by
  induction l with
  | nil => exact absurd ha List.not_mem_nil
  | cons b l ih =>
    obtain ⟨hb, hl⟩ := List.pairwise_cons.1 hl
    rcases List.mem_cons.1 ha with rfl | ha
    · have hnil : l.filter p = [] := List.filter_eq_nil_iff.2 fun c hc => by simp [hb c hc hp]
      rw [List.filter_cons_of_pos hp, hnil]
    · have hneg : ¬ p b = true := fun h => by simp [hb a ha h] at hp
      rw [List.filter_cons_of_neg hneg, ih hl ha]

/-- So a row that fits a word is the only one. -/
theorem filter_fits_eq_singleton {r : OpcodeRow} {w : Word} (hr : r ∈ opcodeMap) (h : r.fits w = true) :
    (opcodeMap.filter fun r => r.fits w) = [r] :=
  filter_eq_singleton_of_pairwise (opcodeMap_conflict.imp fun hne hb =>
    Bool.eq_false_iff.2 fun hc => hne (OpcodeRow.agree_of_fits hb hc)) hr h

/-! ## What the decoder answers -/

/-- What a decoder's answer for `w` says: an instruction of which `w` is a word, or that `w` itself is unknown and no row
fits it. -/
def Answers (w : Word) : Except DecodeError Instr → Prop
  | .ok i => encodeWithY (yField w) i = w
  | .error e => e = .unknownOpcode w ∧ wordWellFormed w = false

/-- A family's rows compare one selector beside `op`; a word with another selector fits no row. -/
theorem not_wellFormed_of_selector {α : Type} {w : Word} {op : BitVec 4} (hop : opField w = op) (mask : Word)
    (sel : Word → α) (known : List α) (hsel : ∀ v, sel (v &&& mask) = sel v)
    (hrows : ∀ r ∈ opcodeMap, opField r.pat = op → r.mask = mask ∧ sel r.pat ∈ known) (hw : sel w ∉ known) :
    wordWellFormed w = false := by
  rw [wordWellFormed, List.any_eq_false]
  intro r hr hfits
  obtain ⟨rfl, hknown⟩ := hrows r hr ((OpcodeRow.opField_pat_of_fits hr hfits).trans hop)
  rw [OpcodeRow.fits, beq_iff_eq] at hfits
  rw [← hfits, hsel] at hknown
  exact hw hknown

theorem nField_and_mask (w : Word) : nField (w &&& 0xF00F#16) = nField w := by
  rw [nField, BitVec.extractLsb'_and]
  exact congrArg BitVec.toFin BitVec.and_allOnes

theorem nnField_and_mask (w : Word) : nnField (w &&& 0xF0FF#16) = nnField w := by
  rw [nnField, BitVec.extractLsb'_and]
  exact BitVec.and_allOnes

section
variable {w : Word}

theorem decodeFamily0_answers (hop : opField w = 0x0#4) : Answers w (decodeFamily0 w) := by
  unfold decodeFamily0
  split_ifs with hcls hret
  · exact hcls.symm
  · exact hret.symm
  · exact ⟨rfl, not_wellFormed_of_selector hop 0xFFFF#16 id [0x00E0#16, 0x00EE#16] (fun _ => BitVec.and_allOnes)
      (by decide) (by simp [hcls, hret])⟩

theorem decodeFamily5_answers (hop : opField w = 0x5#4) : Answers w (decodeFamily5 w) := by
  unfold decodeFamily5
  split_ifs with hn
  · exact formatXY_of_op hop hn
  · exact ⟨rfl, not_wellFormed_of_selector hop 0xF00F#16 nField [0x0] nField_and_mask (by decide) (by simp [hn])⟩

theorem decodeFamily8_answers (hop : opField w = 0x8#4) : Answers w (decodeFamily8 w) := by
  unfold decodeFamily8
  split
  case h_10 =>
    refine ⟨rfl, not_wellFormed_of_selector hop 0xF00F#16 (fun v => (nField v).val) [0, 1, 2, 3, 4, 5, 6, 7, 14]
      (fun v => congrArg Fin.val (nField_and_mask v)) (by decide) ?_⟩
    simp_all
  all_goals exact formatXY_of_op hop (Fin.ext ‹_›)

theorem decodeFamily9_answers (hop : opField w = 0x9#4) : Answers w (decodeFamily9 w) := by
  unfold decodeFamily9
  split_ifs with hn
  · exact formatXY_of_op hop hn
  · exact ⟨rfl, not_wellFormed_of_selector hop 0xF00F#16 nField [0x0] nField_and_mask (by decide) (by simp [hn])⟩

theorem decodeFamilyE_answers (hop : opField w = 0xE#4) : Answers w (decodeFamilyE w) := by
  unfold decodeFamilyE
  split_ifs with hskp hsknp
  · exact formatXS_of_op hop hskp
  · exact formatXS_of_op hop hsknp
  · exact ⟨rfl, not_wellFormed_of_selector hop 0xF0FF#16 nnField [0x9E#8, 0xA1#8] nnField_and_mask (by decide)
      (by simp [hskp, hsknp])⟩

theorem decodeFamilyF_answers (hop : opField w = 0xF#4) : Answers w (decodeFamilyF w) := by
  unfold decodeFamilyF
  split_ifs
  case neg =>
    refine ⟨rfl, not_wellFormed_of_selector hop 0xF0FF#16 nnField
      [0x07#8, 0x0A#8, 0x15#8, 0x18#8, 0x1E#8, 0x29#8, 0x33#8, 0x55#8, 0x65#8] nnField_and_mask (by decide) ?_⟩
    simp [*]
  all_goals exact formatXS_of_op hop ‹_›

end

theorem decode_answers (w : Word) : Answers w (decode w) := by
  have hop {k : BitVec 4} (h : (opField w).toNat = k.toNat) : opField w = k := BitVec.eq_of_toNat_eq h
  unfold decode
  split
  case h_1 h => exact decodeFamily0_answers (hop h)
  case h_6 h => exact decodeFamily5_answers (hop h)
  case h_9 h => exact decodeFamily8_answers (hop h)
  case h_10 h => exact decodeFamily9_answers (hop h)
  case h_15 h => exact decodeFamilyE_answers (hop h)
  case h_16 =>
    have h : (opField w).toNat = 15 := by simp only [imp_false] at *; omega
    exact decodeFamilyF_answers (hop h)
  case h_2 h | h_3 h | h_11 h | h_12 h => exact formatA_of_op (hop h)
  case h_4 h | h_5 h | h_7 h | h_8 h | h_13 h => exact formatXK_of_op (hop h)
  case h_14 h => exact formatXY_of_op (hop (k := 0xD#4) h) rfl

/-- The words that decode to an instruction. -/
theorem decode_ok_iff {w : Word} {i : Instr} : decode w = .ok i ↔ encodeWithY (yField w) i = w := by
  constructor
  · intro h
    have := decode_answers w
    rwa [h] at this
  · intro h
    rw [← h, decode_encodeWithY]

theorem decode_error {w : Word} {e : DecodeError} (h : decode w = .error e) :
    e = .unknownOpcode w ∧ wordWellFormed w = false := by
  have := decode_answers w
  rwa [h] at this

/-! ## The row of every instruction -/

namespace Laws.EncodedRow

theorem all : ∀ i, Statement i
  | .cls => cls
  | .ret => ret
  | .jp nnn => jp nnn
  | .call nnn => call nnn
  | .seVxNn x nn => seVxNn x nn
  | .sneVxNn x nn => sneVxNn x nn
  | .seVxVy x y => seVxVy x y
  | .ldVxNn x nn => ldVxNn x nn
  | .addVxNn x nn => addVxNn x nn
  | .ldVxVy x y => ldVxVy x y
  | .orVxVy x y => orVxVy x y
  | .andVxVy x y => andVxVy x y
  | .xorVxVy x y => xorVxVy x y
  | .addVxVy x y => addVxVy x y
  | .sub x y => sub x y
  | .shr x => shr x
  | .subn x y => subn x y
  | .shl x => shl x
  | .sneVxVy x y => sneVxVy x y
  | .ldINnn nnn => ldINnn nnn
  | .jpV0 nnn => jpV0 nnn
  | .rnd x nn => rnd x nn
  | .drw x y n => drw x y n
  | .skp x => skp x
  | .sknp x => sknp x
  | .ldVxDt x => ldVxDt x
  | .ldVxK x => ldVxK x
  | .ldDtVx x => ldDtVx x
  | .ldStVx x => ldStVx x
  | .addIVx x => addIVx x
  | .ldFVx x => ldFVx x
  | .ldBVx x => ldBVx x
  | .ldMemVx x => ldMemVx x
  | .ldVxMem x => ldVxMem x

end Laws.EncodedRow

/-- A shift's row compares no digit of `y`, so it fits each of its words. -/
theorem exists_row_fits_encodeWithY (y : Reg) (i : Instr) :
    ∃ r ∈ opcodeMap, r.mnemonic = i.mnemonic ∧ r.fits (encodeWithY y i) = true := by
  cases i with
  | shr x => exact ⟨opcodeMap[15], List.getElem_mem _, rfl, Laws.EncodedRow.fits_formatXY _ 0x8#4 x y 0x6#4⟩
  | shl x => exact ⟨opcodeMap[17], List.getElem_mem _, rfl, Laws.EncodedRow.fits_formatXY _ 0x8#4 x y 0xE#4⟩
  | _ => exact Laws.EncodedRow.all _

/-! ## The statements -/

/-- Settles O2: the encoder's word is the instruction's word with `y = 0`, and every word of an instruction decodes to it. -/
theorem decodingAnEncodingReturnsTheInstruction : Obligations.DecodingAnEncodingReturnsTheInstruction :=
  decode_encode

/-- Settles O3: a word is determined by its instruction and its `y`, and by the instruction alone where that is no shift. -/
theorem shiftsIgnoreYAndNothingElseIsIgnored : Obligations.ShiftsIgnoreYAndNothingElseIsIgnored := by
  refine ⟨fun x y => ⟨?_, ?_⟩, fun w w' i h h' hne => ?_⟩
  · rw [formatXY_of_base 0x8006 0x8#4 x y 0x6#4 rfl]
    exact decode_encodeWithY y (.shr x)
  · rw [formatXY_of_base 0x800E 0x8#4 x y 0xE#4 rfl]
    exact decode_encodeWithY y (.shl x)
  · rw [decode_ok_iff] at h h'
    constructor
    · by_contra hi
      rw [encodeWithY_eq_of_not_shift hi] at h h'
      exact hne (h.symm.trans h')
    · rw [← h, ← h', encodeWithY_outsideY, encodeWithY_outsideY]

/-- Settles O4: the row of the instruction fits its words, and no two rows fit one word; a rejected word has a selector that
no row of its family has. -/
theorem decoderAgreesWithTheOpcodeMap : Obligations.DecoderAgreesWithTheOpcodeMap := by
  refine fun w => ⟨fun i h => ?_, fun _ => decode_error⟩
  obtain ⟨r, hr, hm, hfits⟩ := exists_row_fits_encodeWithY (yField w) i
  rw [decode_ok_iff.1 h] at hfits
  rw [filter_fits_eq_singleton hr hfits, List.map_singleton, hm]

end Sys2Proof
end

section
/-! SUPPORT. The engine (spec/40_engine.md): what a step runs and answers, the waiting step, the jump to itself, the causes of
faults, and the timers and keys. -/

namespace Sys2Proof.Machine

/-! ## The step of a running engine (R112 to R116) -/

section
variable {s : State}

theorem step_nextInstr {i : Instr} (hi : s.nextInstr = some i) : step s = exec i s := by
  obtain ⟨hm, w, hf, hd⟩ := State.nextInstr_some.1 hi
  exact step_running hm hf hd

theorem hostStep_nextInstr {i : Instr} {t : State} (hi : s.nextInstr = some i) (he : exec i s = .next t) :
    hostStep s = (t, .ok) := by
  rw [hostStep_next ((step_nextInstr hi).trans he), State.goOnResult_instr hi]

theorem nextInstr_of_bytes {i : Instr} (hm : s.mode = .running) (hr : s.pc.toNat + 1 < 4096)
    (hd : decode (BitVec.ofNat 16 ((s.mem.byteAt s.pc.toNat).toNat * 256 + (s.mem.byteAt (s.pc.toNat + 1)).toNat)) = .ok i) :
    s.nextInstr = some i := by
  rw [← wordOfBytes_ofNat] at hd
  exact State.nextInstr_some.2 ⟨hm, _, State.fetchWord_inRange hr, hd⟩

theorem step_fetchOutOfRange (hm : s.mode = .running) (h : 4095 ≤ s.pc.toNat) :
    step s = .fault (.outOfRangeAddress .memory (max s.pc.toNat 4096)) :=
  step_fetchFault hm (State.fetchWord_outOfRange h)

/-- Only a PC that can fetch no whole word makes the fetch a fault. -/
theorem State.fetchWord_error {f : Fault} (h : s.fetchWord = .error f) :
    4095 ≤ s.pc.toNat ∧ f = .outOfRangeAddress .memory (max s.pc.toNat 4096) := by
  rcases Nat.lt_or_ge s.pc.toNat 4095 with hlt | hge
  · rw [State.fetchWord_inRange (by omega)] at h; cases h
  · rw [State.fetchWord_outOfRange hge] at h; cases h; exact ⟨hge, rfl⟩

end

/-- A step that leaves the state alone leaves it alone however often it is repeated. -/
theorem runSchedule_replicate_step {s : State} {r : OpResult} (h : hostStep s = (s, r)) (n : Nat) :
    runSchedule (List.replicate n .step) s = (s, List.replicate n r) :=
  runSchedule_replicate (op := .step) h n

/-- Settles O5: the two bytes, high byte first, are the word that the step fetches. -/
theorem stepRunsTheInstructionAtPc : Obligations.StepRunsTheInstructionAtPc := by
  intro s i hm hr hd
  have hi := nextInstr_of_bytes hm hr hd
  exact ⟨step_nextInstr hi, hi⟩

/-- Settles O6: the fetch is a fault with the larger of PC and 4096. -/
theorem fetchBeyondMemoryFaults : Obligations.FetchBeyondMemoryFaults := by
  intro s hm h
  rw [← max_def']
  have hstep := step_fetchOutOfRange hm h
  exact ⟨hstep, hostStep_fault hstep⟩

/-! ## Frames of the engine's own writes -/

section
variable (s : State)

theorem State.setPc_onlyChanges (w : Word) : OnlyChanges [.pc] s (s.setPc w) := by
  intro p hp
  cases p with
  | pc => exact absurd (List.mem_singleton_self _) hp
  | memory | regs | keypad => exact fun _ => rfl
  | display => exact fun _ _ => rfl
  | _ => rfl

/-- What ends a wait writes one register, PC and the mode (R111). -/
theorem State.takeKey_setMode_onlyChanges (x : Reg) (k : Key) (m : Mode) :
    OnlyChanges [.regs, .pc, .mode] s ((s.takeKey x k).setMode m) := by
  intro p hp
  cases p with
  | regs | pc | mode => exact absurd (by decide) hp
  | memory | keypad => exact fun _ => rfl
  | display => exact fun _ _ => rfl
  | _ => rfl

end

/-- Settles O7: the next state is the old one with PC advanced. -/
theorem unknownWordAdvancesPcAlone : Obligations.UnknownWordAdvancesPcAlone := by
  intro s w e hm hf hd
  have hstep := step_unknown hm hf hd
  refine ⟨s.advance, hstep, pc_add_two s.pc, s.setPc_onlyChanges _, ?_⟩
  rw [hostStep_next hstep, State.goOnResult_unknown hm hf hd]

/-! ## The waiting step (R111, R125) -/

section
variable {s : State} {x : Reg} (hm : s.mode = .awaitingKey x)
include hm

theorem hostStep_waiting (hk : s.firstPressed = none) : hostStep s = (s, .ok) := by
  rw [hostStep_next (step_waiting hm hk), State.goOnResult_waiting hm]

theorem hostStep_keyArrives {k : Key} (hk : s.firstPressed = some k) :
    hostStep s = ((s.takeKey x k).setMode .running, .ok) := by
  rw [hostStep_next (step_keyArrives hm hk), State.goOnResult_waiting hm]

end

theorem State.isBlocked_iff {s : State} : s.isBlocked = true ↔ ∃ x, s.mode = .awaitingKey x := by
  unfold State.isBlocked
  cases s.mode <;> simp

/-- Settles O8: the scan finds no key, or the lowest. -/
theorem waitingStepEndsAtTheLowestPressedKey : Obligations.WaitingStepEndsAtTheLowestPressedKey := by
  intro s x hm
  refine ⟨fun hk => hostStep_waiting hm (State.firstPressed_none.2 hk), fun k hk hlow => ?_⟩
  refine ⟨_, hostStep_keyArrives hm (State.firstPressed_some.2 ⟨hk, hlow⟩), ?_, fun r hr => ?_, pc_add_two s.pc, rfl,
    s.takeKey_setMode_onlyChanges x k .running⟩
  · rw [State.setMode_getV, State.getV_takeKey, if_pos rfl, keyByte_toNat]
  · rw [State.setMode_getV, State.getV_takeKey, if_neg fun e => hr (List.mem_singleton.2 e)]

/-- Settles O9: a blocked step with no key pressed returns the same state, so it does however often it is repeated. -/
theorem blockedExactlyWhileAwaitingKey : Obligations.BlockedExactlyWhileAwaitingKey := by
  refine fun s => ⟨State.isBlocked_iff, fun hb hk n => ?_⟩
  obtain ⟨x, hm⟩ := State.isBlocked_iff.1 hb
  exact runSchedule_replicate_step (hostStep_waiting hm (State.firstPressed_none.2 hk)) n

/-! ## The jump to itself (R127) -/

theorem addressOf_toNat (nnn : Addr12) : (addressOf nnn).toNat = nnn.toNat :=
  BitVec.toNat_setWidth_of_le (by decide)

theorem exec_jp_self {s : State} {nnn : Addr12} (h : s.pc.toNat = nnn.toNat) : exec (.jp nnn) s = .next s := by
  have hpc : addressOf nnn = s.pc := BitVec.eq_of_toNat_eq ((addressOf_toNat nnn).trans h.symm)
  change Host.Outcome.next (s.setPc (addressOf nnn)) = .next s
  rw [hpc]
  rfl

/-- Settles O10: the word is the encoder's word of the jump, which leaves the state as it is. -/
theorem selfJumpLoopsWithoutFault : Obligations.SelfJumpLoopsWithoutFault := by
  intro s nnn hm hpc hf n
  rw [formatA_of_base 0x1000 0x1#4 nnn rfl] at hf
  have hi : s.nextInstr = some (.jp nnn) := State.nextInstr_some.2 ⟨hm, _, hf, decode_encode (.jp nnn)⟩
  exact runSchedule_replicate_step (hostStep_nextInstr hi (exec_jp_self hpc)) n

/-! ## The causes of faults (R122, 60_exceptions.md R240) -/

/-- What makes an instruction a fault, and with which recorded value. `exec_fault` ties it to `exec`. -/
def FaultCause (s : State) (f : Fault) (i : Instr) : Prop :=
  (i = .ret ∧ s.stack = [] ∧ f = .stackUnderflow s.pc) ∨
  (∃ nnn, i = .call nnn ∧ s.cfg.stackDepth ≤ s.stack.length ∧ f = .stackOverflow s.pc) ∨
  (∃ x, (i = .skp x ∨ i = .sknp x) ∧ 16 ≤ (s.getV x).toNat ∧ f = .outOfRangeAddress .keypad (s.getV x).toNat) ∨
  (f = .outOfRangeAddress .memory (max s.i.toNat 4096) ∧
    ((∃ x, i = .ldBVx x ∧ 4096 ≤ s.i.toNat + 2) ∨
     (∃ x, (i = .ldMemVx x ∨ i = .ldVxMem x) ∧ 4096 ≤ s.i.toNat + x.val) ∨
     (∃ x y n, i = .drw x y n ∧ 0 < n.val ∧ 4096 ≤ s.i.toNat + n.val - 1)))

section
variable {s : State} {f : Fault}

theorem exec_ret_fault (h : exec .ret s = .fault f) : s.stack = [] ∧ f = .stackUnderflow s.pc := by
  simp only [exec, execRet] at h
  cases hs : s.stack with
  | nil => rw [hs] at h; cases h; exact ⟨rfl, rfl⟩
  | cons a rest => rw [hs] at h; cases h

theorem exec_call_fault {nnn : Addr12} (h : exec (.call nnn) s = .fault f) :
    s.cfg.stackDepth ≤ s.stack.length ∧ f = .stackOverflow s.pc := by
  simp only [exec, execCall] at h
  split at h
  · next hfull => cases h; exact ⟨hfull, rfl⟩
  · cases h

theorem State.fault_of_keySkip {vx : Byte} {cond : Key → Bool} (h : s.keySkip vx cond = .fault f) :
    16 ≤ vx.toNat ∧ f = .outOfRangeAddress .keypad vx.toNat := by
  rcases Nat.lt_or_ge vx.toNat 16 with hlt | hge
  · rw [State.keySkip_next.2 ⟨⟨vx.toNat, hlt⟩, rfl, rfl⟩] at h; cases h
  · rw [State.keySkip_fault hge] at h; cases h; exact ⟨hge, rfl⟩

theorem State.fault_of_transfer {n : Nat} {d : State} (h : s.transfer n d = .fault f) :
    0 < n ∧ 4096 < s.i.toNat + n ∧ f = .outOfRangeAddress .memory (max s.i.toNat 4096) := by
  obtain ⟨-, e⟩ | ⟨h0, hr, e⟩ := State.transfer_cases s d n
  · rw [e] at h; cases h
  · rw [e] at h; cases h; exact ⟨h0, hr, rfl⟩

/-- An instruction that faults has its cause. -/
theorem exec_fault {i : Instr} (h : exec i s = .fault f) : FaultCause s f i := by
  cases i with
  | ret => exact .inl ⟨rfl, exec_ret_fault h⟩
  | call nnn => exact .inr (.inl ⟨nnn, rfl, exec_call_fault h⟩)
  | skp x => exact .inr (.inr (.inl ⟨x, .inl rfl, State.fault_of_keySkip h⟩))
  | sknp x => exact .inr (.inr (.inl ⟨x, .inr rfl, State.fault_of_keySkip h⟩))
  | ldBVx x =>
    obtain ⟨-, hr, rfl⟩ := State.fault_of_transfer h
    exact .inr (.inr (.inr ⟨rfl, .inl ⟨x, rfl, by omega⟩⟩))
  | ldMemVx x =>
    obtain ⟨-, hr, rfl⟩ := State.fault_of_transfer h
    exact .inr (.inr (.inr ⟨rfl, .inr (.inl ⟨x, .inl rfl, by omega⟩)⟩))
  | ldVxMem x =>
    obtain ⟨-, hr, rfl⟩ := State.fault_of_transfer h
    exact .inr (.inr (.inr ⟨rfl, .inr (.inl ⟨x, .inr rfl, by omega⟩)⟩))
  | drw x y n =>
    obtain ⟨h0, hr, rfl⟩ := State.fault_of_transfer h
    exact .inr (.inr (.inr ⟨rfl, .inr (.inr ⟨x, y, n, rfl, h0, by omega⟩)⟩))
  | ldVxK x =>
    simp only [exec, execLdVxK] at h
    split at h <;> cases h
  | _ => cases h

end

/-- Settles O12: a step stops in its fetch or in its instruction. -/
theorem eachFaultComesFromItsCause : Obligations.EachFaultComesFromItsCause := by
  intro s f h
  obtain ⟨hm, hf⟩ | ⟨i, hi, he⟩ := step_fault_cases h
  · exact .inl ⟨hm, State.fetchWord_error hf⟩
  · exact .inr ⟨i, hi, exec_fault he⟩

/-! ## The timers and the keys (R124, 10_state.md R27, R28, R31) -/

section
variable {s t : State} {i : Instr}

theorem Effect.dt_changed (he : Effect s i t) (hne : t.dt ≠ s.dt) : ∃ x, i = .ldDtVx x := by
  cases he with
  | delay x => exact ⟨x, rfl⟩
  | _ => exact absurd rfl hne

theorem Effect.st_changed (he : Effect s i t) (hne : t.st ≠ s.st) : ∃ x, i = .ldStVx x := by
  cases he with
  | sound x => exact ⟨x, rfl⟩
  | _ => exact absurd rfl hne

theorem Effect.keys_kept (he : Effect s i t) : t.keys = s.keys := by
  cases he <;> rfl

end

/-- Settles O14: by the effect of the step. -/
theorem onlyTimerLoadsWriteTimersAndNoStepWritesKeys :
    Obligations.OnlyTimerLoadsWriteTimersAndNoStepWritesKeys := by
  intro s t h
  obtain ⟨i, hi, he⟩ | ⟨v, w, m, rfl⟩ := step_effect h
  · refine ⟨fun hne => ?_, fun hne => ?_, he.keys_kept⟩
    · obtain ⟨x, rfl⟩ := he.dt_changed hne
      exact ⟨x, hi⟩
    · obtain ⟨x, rfl⟩ := he.st_changed hne
      exact ⟨x, hi⟩
  · exact ⟨fun hne => absurd rfl hne, fun hne => absurd rfl hne, rfl⟩

end Sys2Proof.Machine
end

section
/-! SUPPORT. Control flow (spec/41_control_flow.md): jumps, the call and the return, and the skips. -/

namespace Sys2Proof

/-! ## The words of the family (30_encoding.md R86, R87) -/

theorem decode_eq_ok_of_eq_encode {w : Word} {i : Instr} (h : w = encode i) : decode w = .ok i := by
  rw [h, decode_encode]

section
variable (x y : Reg) {n : RowCount} (hn : n ≠ 0)
include hn

/-- Families 5 and 9 compare the digit `n` with 0 (log 14). -/
theorem decode_formatXYN_5_unknown : decode (formatXYN 0x5#4 x y (nibble n)) =
    .error (.unknownOpcode (formatXYN 0x5#4 x y (nibble n))) := by
  simp [decode, decodeFamily5, hn]

theorem decode_formatXYN_9_unknown : decode (formatXYN 0x9#4 x y (nibble n)) =
    .error (.unknownOpcode (formatXYN 0x9#4 x y (nibble n))) := by
  simp [decode, decodeFamily9, hn]

end

end Sys2Proof

namespace Sys2Proof.Machine

/-! ## Jumps (R131, R137) -/

/-- A 12-bit address and a byte have a sum below 65536. -/
theorem offsetAddress_toNat (nnn : Addr12) (v0 : Byte) : (offsetAddress nnn v0).toNat = nnn.toNat + v0.toNat := by
  have hn : nnn.toNat < 4096 := nnn.isLt
  have hv : v0.toNat < 256 := v0.isLt
  rw [offsetAddress, BitVec.toNat_add, BitVec.toNat_setWidth_of_le (by decide), BitVec.toNat_setWidth_of_le (by decide)]
  exact Nat.mod_eq_of_lt (by omega)

/-- Settles O37: the jump writes PC alone. -/
theorem jumpGoesToItsAddress : Obligations.JumpGoesToItsAddress :=
  fun nnn s =>
    ⟨decode_eq_ok_of_eq_encode (formatA_of_base 0x1000 0x1#4 nnn rfl), _, rfl, addressOf_toNat nnn,
      s.setPc_onlyChanges _⟩

/-- Settles O43: the jump writes PC alone, with a sum that needs no reduction. -/
theorem jumpWithOffsetAddsV0 : Obligations.JumpWithOffsetAddsV0 :=
  fun nnn s =>
    ⟨decode_eq_ok_of_eq_encode (formatA_of_base 0xB000 0xB#4 nnn rfl), _, rfl, offsetAddress_toNat nnn _,
      s.setPc_onlyChanges _⟩

/-! ## The call and the return (R130, R132) -/

theorem State.setStack_setPc_onlyChanges (s : State) (l : List Word) (w : Word) :
    OnlyChanges [.stack, .pc] s ((s.setStack l).setPc w) := by
  intro p hp
  cases p with
  | stack | pc => exact absurd (by decide) hp
  | memory | regs | keypad => exact fun _ => rfl
  | display => exact fun _ _ => rfl
  | _ => rfl

section
variable {s : State}

theorem exec_call_full {nnn : Addr12} (h : s.cfg.stackDepth ≤ s.stack.length) :
    exec (.call nnn) s = .fault (.stackOverflow s.pc) :=
  if_pos h

theorem exec_ret_empty (h : s.stack = []) : exec .ret s = .fault (.stackUnderflow s.pc) := by
  simp only [exec, execRet, h, raise]

/-- The bytes 00 EE at PC are a return. -/
theorem nextInstr_ret_of_bytes (hm : s.mode = .running) {a : Nat} (hpc : s.pc.toNat = a) (hr : a + 1 < 4096)
    (hhi : s.mem.byteAt a = 0x00#8) (hlo : s.mem.byteAt (a + 1) = 0xEE#8) : s.nextInstr = some .ret := by
  subst hpc
  refine nextInstr_of_bytes hm hr ?_
  rw [hhi, hlo]
  exact decode_encode .ret

end

/-- Settles O38: below the bound the call pushes and jumps, at the bound it is a fault. -/
theorem callPushesTheNextAddressOrOverflows : Obligations.CallPushesTheNextAddressOrOverflows := by
  refine fun nnn s => ⟨decode_eq_ok_of_eq_encode (formatA_of_base 0x2000 0x2#4 nnn rfl), fun hroom => ?_, fun hfull => ?_⟩
  · exact ⟨_, s.nextPc, exec_call_next.2 ⟨hroom, rfl⟩, rfl, pc_add_two s.pc, addressOf_toNat nnn,
      s.setStack_setPc_onlyChanges _ _⟩
  · exact exec_call_full hfull.ge

/-- Settles O39: the newest entry goes to PC, and an empty stack is a fault. -/
theorem returnPopsPcOrUnderflows : Obligations.ReturnPopsPcOrUnderflows := by
  refine ⟨decode_encode .ret, fun s => ⟨fun a rest hs => ?_, exec_ret_empty⟩⟩
  exact ⟨_, exec_ret_next.2 ⟨a, rest, hs, rfl⟩, rfl, rfl, s.setStack_setPc_onlyChanges _ _⟩

/-- Settles O40: the return pops what the call pushed, so the stack is the old one again and PC alone has moved. -/
theorem callThenReturnComesBack : Obligations.CallThenReturnComesBack := by
  intro s nnn hi hroom hr hhi hlo
  obtain ⟨hm, -⟩ := State.nextInstr_some.1 hi
  have hcall : step s = .next ((s.setStack (s.nextPc :: s.stack)).setPc (addressOf nnn)) :=
    (step_nextInstr hi).trans (exec_call_next.2 ⟨hroom, rfl⟩)
  have hret : step ((s.setStack (s.nextPc :: s.stack)).setPc (addressOf nnn)) = .next (s.setPc s.nextPc) :=
    Eq.trans (step_nextInstr (nextInstr_ret_of_bytes hm (addressOf_toNat nnn) hr hhi hlo))
      (exec_ret_next.2 ⟨s.nextPc, s.stack, rfl, rfl⟩)
  exact ⟨_, _, hcall, hret, pc_add_two s.pc, s.setPc_onlyChanges _⟩

/-! ## Skips (R133 to R136, 40_engine.md R118) -/

section
variable {s : State} {i : Instr} {c : Bool} {p : Prop} (hc : c = true ↔ p)
include hc

theorem State.skipIf_skipsWhen : SkipsWhen p s (s.skipIf c) := by
  refine ⟨fun hp => ?_, fun hp => ?_⟩
  · rw [PcMovesBy, State.skipIf_pc, if_pos (hc.2 hp), pc_add_four]
  · rw [PcMovesBy, State.skipIf_pc, if_neg fun h => hp (hc.1 h), pc_add_two]

/-- An instruction that is a skip on `c` skips when `c` says so, and writes PC alone. -/
theorem exec_skip (he : exec i s = .next (s.skipIf c)) :
    ∃ t, exec i s = .next t ∧ SkipsWhen p s t ∧ OnlyChanges [.pc] s t :=
  ⟨_, he, State.skipIf_skipsWhen hc, s.setPc_onlyChanges _⟩

end

/-- Settles O41: each is a skip on a comparison of Vx with nn. -/
theorem byteSkipsCompareVxWithTheImmediate : Obligations.ByteSkipsCompareVxWithTheImmediate :=
  fun x nn _ =>
    ⟨decode_eq_ok_of_eq_encode (formatXK_of_base 0x3000 0x3#4 x nn rfl),
      decode_eq_ok_of_eq_encode (formatXK_of_base 0x4000 0x4#4 x nn rfl), exec_skip beq_iff_eq rfl, exec_skip bne_iff_ne rfl⟩

/-- Settles O42: each is a skip on a comparison of Vx with Vy, and its family compares `n` with 0. -/
theorem registerSkipsCompareVxWithVy : Obligations.RegisterSkipsCompareVxWithVy := by
  refine fun x y s => ⟨decode_eq_ok_of_eq_encode (formatXY_of_base 0x5000 0x5#4 x y 0x0#4 rfl),
    decode_eq_ok_of_eq_encode (formatXY_of_base 0x9000 0x9#4 x y 0x0#4 rfl), fun n h0 h16 => ?_,
    exec_skip beq_iff_eq rfl, exec_skip bne_iff_ne rfl⟩
  obtain ⟨k, rfl⟩ : ∃ k : RowCount, k.val = n := ⟨⟨n, h16⟩, rfl⟩
  have hk : k ≠ 0 := fun h => h0.ne' (congrArg Fin.val h)
  rw [formatXYN_of_base 0x5000 0x5#4 x y k rfl, formatXYN_of_base 0x9000 0x9#4 x y k rfl]
  exact ⟨_, _, decode_formatXYN_5_unknown x y hk, decode_formatXYN_9_unknown x y hk⟩

end Sys2Proof.Machine
end

section
/-! SUPPORT. Register loads and the ALU (spec/42_alu.md): the words of the family, the bytes it computes as numbers, what a
write of one destination and a write of a flag and a result leave behind, and the statements. -/

namespace Sys2Proof

/-! ## The words of the family (30_encoding.md R86, R88) -/

section
variable {op : BitVec 4} {x y : Reg} {nn : Byte} {n : BitVec 4} {i : Instr} (base : Nat)

theorem decode_wordXK (h : base = op.toNat * 4096) (hi : formatXK op x nn = encode i) :
    decode (BitVec.ofNat 16 (base + 256 * x.val + nn.toNat)) = .ok i :=
  decode_eq_ok_of_eq_encode ((formatXK_of_base base op x nn h).trans hi)

/-- A shift has a word for each `y`; any other instruction has the one that `encode` lays out. -/
theorem decode_wordXY (h : base = op.toNat * 4096 + n.toNat) (hi : formatXYN op x y n = encodeWithY y i) :
    decode (BitVec.ofNat 16 (base + 256 * x.val + 16 * y.val)) = .ok i := by
  rw [formatXY_of_base base op x y n h, hi, decode_encodeWithY]

end

end Sys2Proof

namespace Sys2Proof.Machine

/-! ## Results and flags as numbers (R150) -/

section
variable (a b : Byte)

theorem sumByte_toNat : (sumByte a b).toNat = (a.toNat + b.toNat) % 256 := BitVec.toNat_ofNat _ _

theorem diffByte_toNat :
    (diffByte a b).toNat = if a.toNat ≥ b.toNat then a.toNat - b.toNat else a.toNat + 256 - b.toNat := by
  rw [diffByte, BitVec.toNat_ofNat]
  split <;> omega

theorem shiftRight_one_toNat : (a >>> 1).toNat = a.toNat / 2 := by
  rw [BitVec.toNat_ushiftRight, Nat.shiftRight_one]

theorem shiftLeft_one_toNat : (a <<< 1).toNat = a.toNat * 2 % 256 := by
  rw [BitVec.toNat_shiftLeft, Nat.shiftLeft_eq]

theorem flagByte_decide_toNat (p : Prop) [Decidable p] : (flagByte (decide p)).toNat = if p then 1 else 0 := by
  simp only [flagByte_toNat, decide_eq_true_eq]

theorem carryFlag_toNat : (carryFlag a b).toNat = if a.toNat + b.toNat > 255 then 1 else 0 :=
  flagByte_decide_toNat _

theorem noBorrowFlag_toNat : (noBorrowFlag a b).toNat = if a.toNat ≥ b.toNat then 1 else 0 :=
  flagByte_decide_toNat _

/-- A bit as a flag is that binary digit of the number. -/
theorem flagByte_getLsbD_toNat (k : Nat) : (flagByte (a.getLsbD k)).toNat = a.toNat / 2 ^ k % 2 := by
  rw [flagByte_toNat, BitVec.getLsbD, Nat.testBit_eq_decide_div_mod_eq]
  simp only [decide_eq_true_eq]
  split <;> omega

theorem shiftOutLow_toNat : (shiftOutLow a).toNat = a.toNat % 2 := by
  rw [shiftOutLow, flagByte_getLsbD_toNat, pow_zero, Nat.div_one]

/-- Bit 7 is the highest bit of a byte, so no digit is left above it. -/
theorem shiftOutHigh_toNat : (shiftOutHigh a).toNat = a.toNat / 128 := by
  rw [shiftOutHigh, flagByte_getLsbD_toNat]
  omega

end

/-! ## An instruction that writes one destination -/

section
variable (s : State) (x : Reg) (b : Byte)

theorem State.setRegs_advance_onlyChanges (v : Vector Byte 16) :
    OnlyChanges [.regs, .pc] s (s.setRegs v).advance := by
  intro p hp
  cases p with
  | regs | pc => exact absurd (by decide) hp
  | memory | keypad => exact fun _ => rfl
  | display => exact fun _ _ => rfl
  | _ => rfl

theorem State.setV_regsKeptBut : RegsKeptBut [x] s (s.setV x b) :=
  fun _ hr => s.getV_setV_other b (List.ne_of_not_mem_cons hr)

/-- What a write of V[x] that then advances PC leaves behind besides V[x]. -/
theorem State.setV_advance_frame : RegsKeptBut [x] s (s.setV x b).advance ∧ PcMovesBy 2 s (s.setV x b).advance ∧
    OnlyChanges [.regs, .pc] s (s.setV x b).advance :=
  ⟨s.setV_regsKeptBut x b, pc_add_two s.pc, s.setRegs_advance_onlyChanges (s.setV x b).v⟩

end

/-- A draw moves the counter and nothing else, so it widens a frame by the counter alone. -/
theorem OnlyChanges.nextDraw_advance {s t : State} (h : OnlyChanges [.regs, .pc] s t.advance) :
    OnlyChanges [.regs, .pc, .draws] s t.nextDraw.advance := by
  intro p hp
  have hp' : p ∉ [Part.regs, .pc] := fun hm => hp (List.mem_append_left [Part.draws] hm)
  cases p with
  | draws => exact absurd (by decide) hp
  | _ => exact h _ hp'

/-! ## An instruction that writes a flag and a result (R151) -/

section
variable {s : State} {x : Reg} {flag result : Byte}

/-- Where `x` is F, the later of the two writes stands. -/
theorem State.writeFlagAndResult_holds :
    HoldsFlagAndResult s.cfg.flagOrder (s.writeFlagAndResult x flag result) x flag.toNat result.toNat := by
  obtain ⟨v, e, hv⟩ := s.writeFlagAndResult_eq x flag result
  rw [e]
  refine ⟨fun hx => ⟨?_, ?_⟩, fun hx ho => ?_, fun hx ho => ?_⟩
  · rw [State.getV_setRegs, hv, if_neg fun h => hx h.1, if_pos rfl]
  · rw [State.getV_setRegs, hv, if_neg hx.symm, if_pos rfl, ite_self]
  · rw [State.getV_setRegs, hv, ho, if_neg (by decide), if_pos hx.symm]
  · rw [State.getV_setRegs, hv, if_pos ⟨rfl, ho⟩]

theorem State.writeFlagAndResult_regsKeptBut : RegsKeptBut [x, Reg.vf] s (s.writeFlagAndResult x flag result) := by
  intro r hr
  have hf : r ∉ [Reg.vf] := List.not_mem_of_not_mem_cons hr
  exact s.writeFlagAndResult_getV_other x flag result (List.ne_of_not_mem_cons hr) (List.ne_of_not_mem_cons hf)

theorem State.writeFlagAndResult_advance_onlyChanges :
    OnlyChanges [.regs, .pc] s (s.writeFlagAndResult x flag result).advance := by
  obtain ⟨v, e, -⟩ := s.writeFlagAndResult_eq x flag result
  rw [e]
  exact s.setRegs_advance_onlyChanges v

/-- An instruction that writes a flag and a result holds both as numbers, under either order, and writes nothing else but PC. -/
theorem exec_flagAndResult {i : Instr} {f r : Nat} (hf : flag.toNat = f) (hr : result.toNat = r)
    (he : exec i s = .next (s.writeFlagAndResult x flag result).advance) :
    ∃ t, exec i s = .next t ∧ HoldsFlagAndResult s.cfg.flagOrder t x f r ∧ RegsKeptBut [x, Reg.vf] s t ∧
      PcMovesBy 2 s t ∧ OnlyChanges [.regs, .pc] s t := by
  subst hf hr
  refine ⟨_, he, State.writeFlagAndResult_holds, State.writeFlagAndResult_regsKeptBut, ?_,
    State.writeFlagAndResult_advance_onlyChanges⟩
  rw [PcMovesBy, State.advance_pc, State.writeFlagAndResult_pc, pc_add_two]

end

/-! ## Loads, and the ALU instructions without a flag (R152 to R157, R163) -/

/-- Settles O27: the immediate goes to V[x] alone. -/
theorem loadByteWritesTheImmediate : Obligations.LoadByteWritesTheImmediate :=
  fun x nn s => ⟨decode_wordXK 0x6000 (op := 0x6#4) rfl rfl, _, rfl, s.getV_setV_same x nn, s.setV_advance_frame x nn⟩

/-- Settles O28: the reduced sum goes to V[x] alone. -/
theorem addByteWrapsWithoutAFlag : Obligations.AddByteWrapsWithoutAFlag := by
  refine fun x nn s => ⟨decode_wordXK 0x7000 (op := 0x7#4) rfl rfl, _, rfl, ?_, s.setV_advance_frame x _⟩
  rw [State.advance_getV, State.getV_setV_same, sumByte_toNat]

/-- Settles O29: the old Vy goes to V[x] alone. -/
theorem copyRegisterCopiesVy : Obligations.CopyRegisterCopiesVy :=
  fun x _ s => ⟨decode_wordXY 0x8000 (op := 0x8#4) (n := 0x0#4) rfl rfl, _, rfl, s.getV_setV_same x _,
    s.setV_advance_frame x _⟩

/-- Settles O30: each writes V[x] alone, with a word operation that acts on each bit. -/
theorem bitwiseInstructionsActBitByBit : Obligations.BitwiseInstructionsActBitByBit := by
  refine fun x _ s => ⟨decode_wordXY 0x8001 (op := 0x8#4) (n := 0x1#4) rfl rfl,
    decode_wordXY 0x8002 (op := 0x8#4) (n := 0x2#4) rfl rfl, decode_wordXY 0x8003 (op := 0x8#4) (n := 0x3#4) rfl rfl,
    ⟨_, rfl, fun k _ => ?_, s.setV_advance_frame x _⟩, ⟨_, rfl, fun k _ => ?_, s.setV_advance_frame x _⟩,
    ⟨_, rfl, fun k _ => ?_, s.setV_advance_frame x _⟩⟩
  · rw [State.advance_getV, State.getV_setV_same, BitVec.getLsbD_or]
  · rw [State.advance_getV, State.getV_setV_same, BitVec.getLsbD_and]
  · rw [State.advance_getV, State.getV_setV_same, BitVec.getLsbD_xor]

/-- Settles O36: the free byte that the counter selects goes to V[x] under the mask, and the counter moves. -/
theorem randomByteIsMaskedAndConsumed : Obligations.RandomByteIsMaskedAndConsumed := by
  intro x nn s
  obtain ⟨hregs, hpc, honly⟩ := s.setV_advance_frame x (nn &&& s.randomByte)
  refine ⟨decode_wordXK 0xC000 (op := 0xC#4) rfl rfl, _, rfl, fun k _ => ?_, rfl, hregs, hpc, honly.nextDraw_advance⟩
  rw [State.advance_getV, State.nextDraw_getV, State.getV_setV_same, BitVec.getLsbD_and, State.randomByte]

/-! ## The ALU instructions with a flag (R158 to R162) -/

/-- Settles O31: the flag is the carry of the exact sum, the result the sum reduced. -/
theorem addRegistersSetsCarry : Obligations.AddRegistersSetsCarry :=
  fun _ _ _ => ⟨decode_wordXY 0x8004 (op := 0x8#4) (n := 0x4#4) rfl rfl,
    exec_flagAndResult (carryFlag_toNat _ _) (sumByte_toNat _ _) rfl⟩

/-- Settles O32: the flag compares Vx with Vy, the result is their difference reduced. -/
theorem subtractSetsNoBorrow : Obligations.SubtractSetsNoBorrow :=
  fun _ _ _ => ⟨decode_wordXY 0x8005 (op := 0x8#4) (n := 0x5#4) rfl rfl,
    exec_flagAndResult (noBorrowFlag_toNat _ _) (diffByte_toNat _ _) rfl⟩

/-- Settles O33: the flag is the bit that the shift drops, and `y` is no part of the instruction. -/
theorem shiftRightShiftsOutBitZero : Obligations.ShiftRightShiftsOutBitZero :=
  fun _ _ _ => ⟨decode_wordXY 0x8006 (op := 0x8#4) (n := 0x6#4) rfl rfl,
    exec_flagAndResult (shiftOutLow_toNat _) (shiftRight_one_toNat _) rfl⟩

/-- Settles O34: the subtraction of O32 with its operands exchanged. -/
theorem reverseSubtractSetsNoBorrow : Obligations.ReverseSubtractSetsNoBorrow :=
  fun _ _ _ => ⟨decode_wordXY 0x8007 (op := 0x8#4) (n := 0x7#4) rfl rfl,
    exec_flagAndResult (noBorrowFlag_toNat _ _) (diffByte_toNat _ _) rfl⟩

/-- Settles O35: the flag is the bit that the shift drops, and `y` is no part of the instruction. -/
theorem shiftLeftShiftsOutBitSeven : Obligations.ShiftLeftShiftsOutBitSeven :=
  fun _ _ _ => ⟨decode_wordXY 0x800E (op := 0x8#4) (n := 0xE#4) rfl rfl,
    exec_flagAndResult (shiftOutHigh_toNat _) (shiftLeft_one_toNat _) rfl⟩

end Sys2Proof.Machine
end

section
/-! SUPPORT. The index register and memory transfers (spec/43_index_memory.md): the words of the family, the frames of its
writes, what a store of a run of bytes at I leaves behind, and the statements. -/

namespace Sys2Proof

/-- A format XS word, its selector byte in the base (30_encoding.md R82). -/
theorem decode_wordXS {op : BitVec 4} {x : Reg} {nn : Byte} {i : Instr} (base : Nat) (h : base = op.toNat * 4096 + nn.toNat)
    (hi : formatXK op x nn = encode i) : decode (BitVec.ofNat 16 (base + 256 * x.val)) = .ok i :=
  decode_eq_ok_of_eq_encode ((formatXS_of_base base op x nn h).trans hi)

end Sys2Proof

namespace Sys2Proof.Machine

/-! ## Frames -/

/-- An advance moves PC and nothing else, so it widens a frame by PC alone. -/
theorem OnlyChanges.advance {ps : List Part} {s t : State} (h : OnlyChanges ps s t) :
    OnlyChanges (ps ++ [.pc]) s t.advance := by
  intro p hp
  have hp' : p ∉ ps := fun hm => hp (List.mem_append_left [Part.pc] hm)
  cases p with
  | pc => exact absurd (List.mem_append_right ps (List.mem_singleton_self _)) hp
  | _ => exact h _ hp'

section
variable (s : State)

theorem State.setI_onlyChanges (w : Word) : OnlyChanges [.index] s (s.setI w) := by
  intro p hp
  cases p with
  | index => exact absurd (List.mem_singleton_self _) hp
  | memory | regs | keypad => exact fun _ => rfl
  | display => exact fun _ _ => rfl
  | _ => rfl

/-- What a write of I that then advances PC leaves behind besides I. -/
theorem State.setI_advance_frame (w : Word) :
    PcMovesBy 2 s (s.setI w).advance ∧ OnlyChanges [.index, .pc] s (s.setI w).advance :=
  ⟨pc_add_two s.pc, (s.setI_onlyChanges w).advance⟩

end

/-! ## Writes of I (R180 to R182) -/

theorem indexPlus_toNat (i : Word) (vx : Byte) : (indexPlus i vx).toNat = (i.toNat + vx.toNat) % 65536 := by
  rw [indexPlus, BitVec.toNat_add, BitVec.toNat_setWidth_of_le (by decide)]

/-- The largest glyph address is 255 * 5, so 16 bits hold it. -/
theorem glyphAddress_toNat (vx : Byte) : (glyphAddress vx).toNat = vx.toNat * 5 := by
  rw [glyphAddress, BitVec.toNat_ofNat]
  omega

/-- Settles O44: the address goes to I alone. -/
theorem loadIndexWritesTheAddress : Obligations.LoadIndexWritesTheAddress :=
  fun nnn s => ⟨decode_eq_ok_of_eq_encode (formatA_of_base 0xA000 0xA#4 nnn rfl), _, rfl, addressOf_toNat nnn,
    s.setI_advance_frame _⟩

/-- Settles O45: the reduced sum, or the product that needs no reduction, goes to I alone. -/
theorem indexAdditionAndGlyphAddress : Obligations.IndexAdditionAndGlyphAddress :=
  fun _ s => ⟨decode_wordXS 0xF01E (op := 0xF#4) (nn := 0x1E#8) rfl rfl,
    decode_wordXS 0xF029 (op := 0xF#4) (nn := 0x29#8) rfl rfl,
    ⟨_, rfl, indexPlus_toNat s.i _, s.setI_advance_frame _⟩, ⟨_, rfl, glyphAddress_toNat _, s.setI_advance_frame _⟩⟩

/-! ## Stores at I (R183, R184, R186) -/

/-- What an in-range store of the bytes `bs` at I leaves behind: byte `k` at the effective address of `k`, and every byte
outside the run as it was. -/
theorem exec_storeBytes {s : State} {i : Instr} {bs : List Byte} (hs : s.Inv) (hr : s.i.toNat + bs.length ≤ 4096)
    (he : exec i s = s.transfer bs.length (s.setMem (s.mem.writeBytes s.i.toNat bs)).advance) :
    ∃ t, exec i s = .next t ∧ (∀ k (h : k < bs.length), t.mem.byteAt (s.effectiveAddress k) = bs[k]) ∧
      (∀ a, a < s.effectiveAddress 0 ∨ s.effectiveAddress bs.length ≤ a → t.mem.byteAt a = s.mem.byteAt a) ∧
      PcMovesBy 2 s t ∧ OnlyChanges [.memory, .pc] s t := by
  obtain ⟨hmem, -⟩ := hs
  exact ⟨_, he.trans (State.transfer_inRange (.inr hr)), fun _ hk => Memory.byteAt_writeBytes_inside hmem hr hk,
    fun _ ha => Memory.byteAt_writeBytes_outside hmem hr ha, pc_add_two s.pc, (s.setMem_onlyChanges _).advance⟩

theorem byte_ofNat_toNat {n : Nat} (h : n < 256) : (BitVec.ofNat 8 n).toNat = n := by
  rw [BitVec.toNat_ofNat, Nat.mod_eq_of_lt h]

/-- Settles O46: a store of the three decimal digits, each of which a byte holds. -/
theorem bcdStoresThreeDigits : Obligations.BcdStoresThreeDigits := by
  refine fun x s => ⟨decode_wordXS 0xF033 (op := 0xF#4) (nn := 0x33#8) rfl rfl, fun hs hr => ?_⟩
  obtain ⟨t, he, hin, hout, hpc, honly⟩ := exec_storeBytes (i := .ldBVx x) (bs := decimalDigits (s.getV x)) hs hr rfl
  refine ⟨t, he, ?_, ?_, ?_, hout, hpc, honly⟩
  · rw [hin 0 (by simp)]; exact byte_ofNat_toNat (by omega)
  · rw [hin 1 (by simp)]; exact byte_ofNat_toNat (by omega)
  · rw [hin 2 (by simp)]; exact byte_ofNat_toNat (by omega)

/-- Settles O47: a store of the bytes V0 to Vx. -/
theorem registerStoreWritesV0ToVx : Obligations.RegisterStoreWritesV0ToVx := by
  refine fun x s => ⟨decode_wordXS 0xF055 (op := 0xF#4) (nn := 0x55#8) rfl rfl, fun hs hr => ?_⟩
  have hlen := s.length_regsUpTo x
  obtain ⟨t, he, hin, hout, hpc, honly⟩ := exec_storeBytes (i := .ldMemVx x) (bs := s.regsUpTo x) hs
    (by rw [hlen]; exact hr) (by rw [hlen]; rfl)
  refine ⟨t, he, fun r hrx => ?_, fun a ha => hout a ?_, hpc, honly⟩
  · rw [hin r.val (by rw [hlen]; exact Nat.lt_succ_of_le hrx), s.getElem_regsUpTo]
  · rw [hlen]; exact ha

/-! ## The load at I (R185, R186) -/

/-- Settles O48: V0 to Vx are replaced by the bytes at I and up. -/
theorem registerLoadReadsV0ToVx : Obligations.RegisterLoadReadsV0ToVx := by
  refine fun x s => ⟨decode_wordXS 0xF065 (op := 0xF#4) (nn := 0x65#8) rfl rfl, fun hr => ?_⟩
  refine ⟨_, exec_ldVxMem_next.2 ⟨hr, rfl⟩, fun r hrx => ?_, fun r hxr => ?_, pc_add_two s.pc,
    s.setRegs_advance_onlyChanges _⟩
  · exact (s.get_regsLoaded x r).trans (if_pos hrx)
  · exact (s.get_regsLoaded x r).trans (if_neg (not_le.2 hxr))

/-- Settles O49: the load reads the addresses that the store wrote, because neither changes I. -/
theorem storeThenLoadRestoresTheRegisters : Obligations.StoreThenLoadRestoresTheRegisters := by
  intro x s v hs hr
  obtain ⟨-, hstore⟩ := registerStoreWritesV0ToVx x s
  obtain ⟨t, ht, hstored, -, -, honly⟩ := hstore hs hr
  have hti : t.i = s.i := honly .index (by decide)
  obtain ⟨-, hload⟩ := registerLoadReadsV0ToVx x (t.setRegs v)
  obtain ⟨u, hu, hloaded, hkept, -, honly'⟩ := hload (by rw [State.setRegs_i, hti]; exact hr)
  have hui : u.i = t.i := honly' .index (by decide)
  refine ⟨t, u, ht, hu, fun r hrx => ?_, hkept, hti, hui.trans hti⟩
  have haddr : (t.setRegs v).effectiveAddress r.val = s.effectiveAddress r.val := congrArg (·.toNat + r.val) hti
  rw [hloaded r hrx, haddr]
  exact hstored r hrx

/-! ## Transfers beyond memory (R186, 44_display.md R202) -/

/-- Settles O50: each is a transfer whose last byte lies at 4096 or above. -/
theorem transfersBeyondMemoryFault : Obligations.TransfersBeyondMemoryFault := by
  refine fun x y n s => ⟨fun h => ?_, fun h => ⟨?_, ?_⟩, fun h0 h => ?_⟩
  · exact State.transfer_outOfRange (by decide) (by omega)
  · exact State.transfer_outOfRange (Nat.succ_pos _) (by omega)
  · exact State.transfer_outOfRange (Nat.succ_pos _) (by omega)
  · exact State.transfer_outOfRange h0 (by omega)

end Sys2Proof.Machine
end

section
/-! SUPPORT. The display (spec/44_display.md): the frames of its writes, what the drawing loop does to the pixels and the flag in
the terms of `SpriteCovers`, and the statements. -/

namespace Sys2Proof.Machine

/-! ## Frames -/

theorem State.setDisp_onlyChanges (s : State) (d : Display) : OnlyChanges [.display] s (s.setDisp d) := by
  intro p hp
  cases p with
  | display => exact absurd (List.mem_singleton_self _) hp
  | memory | regs | keypad => exact fun _ => rfl
  | _ => rfl

/-- A register write changes no other part, so it widens a frame by the registers alone. -/
theorem OnlyChanges.setV {ps : List Part} {s t : State} (h : OnlyChanges ps s t) (x : Reg) (b : Byte) :
    OnlyChanges (.regs :: ps) s (t.setV x b) := by
  intro p hp
  have hp' : p ∉ ps := List.not_mem_of_not_mem_cons hp
  cases p with
  | regs => exact absurd List.mem_cons_self hp
  | _ => exact h _ hp'

/-! ## The surface as its 64 x 32 pixels (R203) -/

@[simp] theorem Display.pixel_mod (d : Display) (x y : Nat) : d.pixel (x % 64) (y % 32) = d.pixel x y := by
  simp only [Display.pixel, Nat.mod_mod]

/-- Coordinates wrap, so two displays that agree on the surface are the same. -/
theorem Display.ext_surface {d e : Display} (h : ∀ x < 64, ∀ y < 32, d.pixel x y = e.pixel x y) : d = e :=
  Display.ext_pixel fun x y => by
    rw [← d.pixel_mod, ← e.pixel_mod, h _ (Nat.mod_lt x (by decide)) _ (Nat.mod_lt y (by decide))]

/-! ## The drawing loop (R202 to R204) -/

section
variable {s : State} {x y : Reg} {n : RowCount}

theorem State.length_sprite_le : (s.sprite n).length ≤ 32 := by
  rw [State.sprite, Memory.length_readBytes]
  omega

theorem State.drawn_inverts {px py : Nat} (hx : px < 64) (hy : py < 32) :
    (s.drawn x y n).1.pixel px py ≠ s.pixel px py ↔ SpriteCovers s x y n px py := by
  obtain ⟨hpixels, -⟩ := drawRows_spec (s.getV x).toNat (s.sprite n) (s.getV y).toNat State.length_sprite_le (s.disp, false)
  exact (hpixels px py).trans (covered_sprite s x y n px py hx hy)

/-- The loop meets each 1 bit at its place before wrapping; the surface has it at the wrapped one. -/
theorem State.drawn_collides :
    (s.drawn x y n).2 = true ↔ ∃ px < 64, ∃ py < 32, s.pixel px py = true ∧ SpriteCovers s x y n px py := by
  obtain ⟨-, hflag⟩ := drawRows_spec (s.getV x).toNat (s.sprite n) (s.getV y).toNat State.length_sprite_le (s.disp, false)
  rw [State.drawn, hflag, or_iff_right Bool.false_ne_true]
  constructor
  · rintro ⟨row, hrow, c, hc, hbit, hset⟩
    have hx := Nat.mod_lt ((s.getV x).toNat + c) (show 0 < 64 by decide)
    have hy := Nat.mod_lt ((s.getV y).toNat + row) (show 0 < 32 by decide)
    refine ⟨_, hx, _, hy, (s.disp.pixel_mod _ _).trans hset, (covered_sprite s x y n _ _ hx hy).1 ?_⟩
    exact ⟨row, hrow, c, hc, hbit, Nat.mod_mod _ _, Nat.mod_mod _ _⟩
  · rintro ⟨px, hx, py, hy, hset, hcov⟩
    obtain ⟨row, hrow, c, hc, hbit, ex, ey⟩ := (covered_sprite s x y n px py hx hy).2 hcov
    refine ⟨row, hrow, c, hc, hbit, ?_⟩
    rw [← Display.pixel_mod, ← ex, ← ey, Display.pixel_mod]
    exact hset

end

/-! ## Clear and draw (R201, R202) -/

/-- Settles O51: the clear surface replaces the display alone. -/
theorem clearUnsetsEveryPixel : Obligations.ClearUnsetsEveryPixel :=
  ⟨decode_encode .cls, fun s => ⟨_, rfl, fun x _ y _ => Display.pixel_clear x y, pc_add_two s.pc,
    (s.setDisp_onlyChanges _).advance⟩⟩

/-- Settles O52: the loop inverts the covered pixels and finds the set ones among them, and VF is written after it. -/
theorem drawInvertsExactlyTheCoveredPixels : Obligations.DrawInvertsExactlyTheCoveredPixels := by
  refine fun x y n s => ⟨decode_eq_ok_of_eq_encode (formatXYN_of_base 0xD000 0xD#4 x y n rfl), fun hr => ?_⟩
  refine ⟨_, exec_drw_next.2 ⟨hr, rfl⟩, fun px hx py hy => State.drawn_inverts hx hy, fun hset => ?_, fun hnone => ?_,
    State.setV_regsKeptBut (s.setDisp _) Reg.vf _, pc_add_two s.pc, ((s.setDisp_onlyChanges _).setV _ _).advance⟩
  · rw [State.advance_getV, State.getV_setV_same, State.drawn_collides.2 hset]
    rfl
  · rw [State.advance_getV, State.getV_setV_same, eq_false_of_ne_true (mt State.drawn_collides.1 hnone)]
    rfl

/-! ## Drawing twice (R206) -/

/-- A sprite's place is fixed by Vx, Vy, I and the bytes of memory. -/
theorem spriteCovers_congr {s t : State} {x y : Reg} (hx : t.getV x = s.getV x) (hy : t.getV y = s.getV y)
    (hi : t.i = s.i) (hmem : ∀ a, t.mem.byteAt a = s.mem.byteAt a) (n : RowCount) :
    SpriteCovers t x y n = SpriteCovers s x y n := by
  funext px py
  simp only [SpriteCovers, hx, hy, hi, hmem]

theorem RegsKeptBut.getV_eq {s t : State} {r q : Reg} (h : RegsKeptBut [q] s t) (hr : r ≠ q ∨ t.getV q = s.getV q) :
    t.getV r = s.getV r := by
  by_cases e : r = q
  · subst e
    exact hr.resolve_left (not_not_intro rfl)
  · exact h r fun hm => e (List.mem_singleton.1 hm)

/-- A pixel inverted by both of two draws or by neither is the old one. -/
theorem pixel_restored : ∀ {before between after : Bool}, (after ≠ between ↔ between ≠ before) → after = before := by
  decide

/-- Settles O53: the second draw covers the same pixels as the first, so it inverts each of them back. -/
theorem drawingTwiceRestoresTheDisplay : Obligations.DrawingTwiceRestoresTheDisplay := by
  intro x y n s hr
  obtain ⟨-, hfirst⟩ := drawInvertsExactlyTheCoveredPixels x y n s
  obtain ⟨t, ht, hinv, -, -, hregs, -, honly⟩ := hfirst hr
  refine ⟨t, ht, fun hvf => ?_⟩
  have hi : t.i = s.i := honly .index (by decide)
  have hcov : SpriteCovers t x y n = SpriteCovers s x y n :=
    spriteCovers_congr (hregs.getV_eq (hvf.imp_left And.left)) (hregs.getV_eq (hvf.imp_left And.right)) hi
      (honly .memory (by decide)) n
  obtain ⟨-, hsecond⟩ := drawInvertsExactlyTheCoveredPixels x y n t
  obtain ⟨u, hu, hinv', hset, hnone, -⟩ := hsecond (hi ▸ hr)
  rw [hcov] at hinv' hset hnone
  have hvf_iff : u.getV Reg.vf = 1#8 ↔ ∃ px < 64, ∃ py < 32, t.pixel px py = true ∧ SpriteCovers s x y n px py := by
    refine ⟨fun h => by_contra fun hn => ?_, hset⟩
    exact absurd ((hnone hn).symm.trans h) (by decide)
  refine ⟨u, hu, Display.ext_surface fun px hx py hy => ?_, hvf_iff.trans ?_⟩
  · exact pixel_restored ((hinv' px hx py hy).trans (hinv px hx py hy).symm)
  · have hflip : ∀ px < 64, ∀ py < 32, SpriteCovers s x y n px py → (t.pixel px py = true ↔ s.pixel px py = false) :=
      fun px hx py hy hc => by rw [Bool.eq_not_of_ne ((hinv px hx py hy).2 hc), Bool.not_eq_true']
    exact exists_congr fun px => and_congr_right fun hx => exists_congr fun py => and_congr_right fun hy =>
      and_congr_left (hflip px hx py hy)

end Sys2Proof.Machine
end

section
/-! SUPPORT. The keypad and the timers (spec/45_keypad_timers.md): the frames of a delay timer's and of the mode's write, and the
statements. -/

namespace Sys2Proof.Machine

/-! ## Frames -/

section
variable (s : State)

theorem State.setDt_onlyChanges (b : Byte) : OnlyChanges [.delayTimer] s (s.setDt b) := by
  intro p hp
  cases p with
  | delayTimer => exact absurd (List.mem_singleton_self _) hp
  | memory | regs | keypad => exact fun _ => rfl
  | display => exact fun _ _ => rfl
  | _ => rfl

theorem State.setMode_onlyChanges (m : Mode) : OnlyChanges [.mode] s (s.setMode m) := by
  intro p hp
  cases p with
  | mode => exact absurd (List.mem_singleton_self _) hp
  | memory | regs | keypad => exact fun _ => rfl
  | display => exact fun _ _ => rfl
  | _ => rfl

end

/-! ## Key skips (R220 to R222) -/

/-- Settles O54: where Vx names a key, each is a skip on whether that key is pressed; where it names none, the fault is the key
skip's own. -/
theorem keySkipsAskTheNamedKey : Obligations.KeySkipsAskTheNamedKey := by
  refine fun x s => ⟨decode_wordXS 0xE09E (op := 0xE#4) (nn := 0x9E#8) rfl rfl,
    decode_wordXS 0xE0A1 (op := 0xE#4) (nn := 0xA1#8) rfl rfl, fun k hk => ⟨?_, ?_⟩,
    fun h => ⟨State.keySkip_fault h, State.keySkip_fault h⟩⟩
  · exact exec_skip Iff.rfl (State.keySkip_next.2 ⟨k, hk, rfl⟩)
  · exact exec_skip (Bool.not_eq_true' _).to_iff (State.keySkip_next.2 ⟨k, hk, rfl⟩)

/-! ## Timers (R223, R225, R226) -/

/-- Settles O55: each copies its byte to one destination and advances PC. -/
theorem timerMovesCopyTheirByte : Obligations.TimerMovesCopyTheirByte :=
  fun x s => ⟨decode_wordXS 0xF007 (op := 0xF#4) (nn := 0x07#8) rfl rfl,
    decode_wordXS 0xF015 (op := 0xF#4) (nn := 0x15#8) rfl rfl,
    decode_wordXS 0xF018 (op := 0xF#4) (nn := 0x18#8) rfl rfl,
    ⟨_, rfl, s.getV_setV_same x s.dt, s.setV_advance_frame x s.dt⟩,
    ⟨_, rfl, rfl, pc_add_two s.pc, (s.setDt_onlyChanges _).advance⟩,
    ⟨_, rfl, rfl, rfl, pc_add_two s.pc, (s.setSt_onlyChanges _).advance⟩⟩

/-! ## The key wait (R224) -/

/-- Settles O56: the scan finds the lowest pressed key, which Vx takes, or no key, and then the mode alone changes. -/
theorem keyWaitTakesTheLowestKeyOrWaits : Obligations.KeyWaitTakesTheLowestKeyOrWaits := by
  refine fun x s => ⟨decode_wordXS 0xF00A (op := 0xF#4) (nn := 0x0A#8) rfl rfl, fun k hk hlow => ?_, fun hnone => ?_⟩
  · have hfirst : s.firstPressed = some k := State.firstPressed_some.2 ⟨hk, hlow⟩
    refine ⟨s.takeKey x k, exec_ldVxK_next.2 (.inr ⟨k, hfirst, rfl⟩), ?_, s.setV_advance_frame x (keyByte k)⟩
    rw [State.getV_takeKey, if_pos rfl, keyByte_toNat]
  · exact ⟨_, exec_ldVxK_next.2 (.inl ⟨State.firstPressed_none.2 hnone, rfl⟩), rfl, s.setMode_onlyChanges _⟩

end Sys2Proof.Machine
end

section
/-! SUPPORT. The host's operations and what every step answers (spec/60_exceptions.md): where an operation can leave the state,
schedules of operations, no step is refused, a fault repeats, the writers of the display, the timers and the keypad. -/

namespace Sys2Proof.Machine

/-! ## Where a host operation leaves the state (R241, R242) -/

section
variable (s : State)

/-- The host holds the next state, or, after a fault, the state it held. -/
theorem hostStep_state_cases : step s = .next (hostStep s).1 ∨ (hostStep s).1 = s := by
  unfold hostStep
  cases step s with
  | next t => exact .inl rfl
  | fault f => exact .inr rfl
  | refused r => exact .inr rfl

/-- A load writes the image, or, when the image does not fit, nothing. -/
theorem runHostOp_loadProgram_state_cases (bs : List Byte) :
    (runHostOp s (.loadProgram bs)).1 = s.setMem (s.mem.writeBytes Config.programBase bs) ∨
      (runHostOp s (.loadProgram bs)).1 = s := by
  rcases Nat.lt_or_ge 3584 bs.length with h | h
  · exact .inr (by rw [runHostOp_loadProgram_tooLong s h])
  · exact .inl (by rw [runHostOp_loadProgram_fits s h])

end

/-! ## The invariant along a schedule (R242, R261) -/

section
variable {s : State} (hs : s.Inv)
include hs

theorem hostStep_keeps_inv : (hostStep s).1.Inv := by
  obtain h | h := hostStep_state_cases s
  · exact everyStepKeepsTheInvariant s _ hs h
  · rw [h]; exact hs

theorem runHostOp_keeps_inv (op : HostOp) : (runHostOp s op).1.Inv := by
  cases op with
  | loadProgram bs =>
    obtain ⟨hmem, hstack⟩ := hs
    obtain h | h := runHostOp_loadProgram_state_cases s bs
    · rw [h]; exact ⟨Memory.wf_writeBytes hmem _ _, hstack⟩
    · rw [h]; exact ⟨hmem, hstack⟩
  | step => exact hostStep_keeps_inv hs
  | tick | setKey k b => exact hs

end

/-- Settles O24: by induction on the schedule, whose every operation keeps the invariant. -/
theorem everyHostScheduleKeepsTheInvariant : Obligations.EveryHostScheduleKeepsTheInvariant := by
  intro ops
  induction ops with
  | nil => exact fun _ hs => hs
  | cons op ops ih => exact fun s hs => ih _ (runHostOp_keeps_inv hs op)

/-! ## No refusal (R249) -/

section
variable {s : State} {r : Refusal}

theorem State.transfer_ne_refused {n : Nat} {t : State} : s.transfer n t ≠ .refused r := by
  obtain ⟨-, e⟩ | ⟨-, -, e⟩ := State.transfer_cases s t n <;> rw [e] <;> nofun

theorem State.keySkip_ne_refused {vx : Byte} {cond : Key → Bool} : s.keySkip vx cond ≠ .refused r := by
  rcases Nat.lt_or_ge vx.toNat 16 with h | h
  · rw [State.keySkip_next.2 ⟨⟨vx.toNat, h⟩, rfl, rfl⟩]; nofun
  · rw [State.keySkip_fault h]; nofun

/-- Every arm of `exec` answers a next state or a fault. -/
theorem exec_ne_refused (i : Instr) : exec i s ≠ .refused r := by
  cases i with
  | ret =>
    simp only [exec, execRet]
    cases s.stack <;> nofun
  | call nnn =>
    simp only [exec, execCall]
    split <;> nofun
  | ldVxK x =>
    simp only [exec, execLdVxK]
    cases s.firstPressed <;> nofun
  | skp x | sknp x => exact State.keySkip_ne_refused
  | drw x y n | ldBVx x | ldMemVx x | ldVxMem x => exact State.transfer_ne_refused
  | _ => nofun

end

/-- Settles O11: by the branches of the step, none of which refuses. -/
theorem noStepIsRefused : Obligations.NoStepIsRefused := by
  intro s r
  cases hm : s.mode with
  | awaitingKey x =>
    cases hk : s.firstPressed with
    | none => rw [step_waiting hm hk]; nofun
    | some k => rw [step_keyArrives hm hk]; nofun
  | running =>
    cases hf : s.fetchWord with
    | error f => rw [step_fetchFault hm hf]; nofun
    | ok w =>
      cases hd : decode w with
      | error e => rw [step_unknown hm hf hd]; nofun
      | ok i => rw [step_running hm hf hd]; exact exec_ne_refused i

/-! ## A fault repeats (R242, R244) -/

/-- Settles O13: a faulted step returns the state it was given, so it does however often it is repeated. -/
theorem faultedStepRepeats : Obligations.FaultedStepRepeats :=
  fun _ _ h n => runSchedule_replicate_step (hostStep_fault h) n

/-! ## The writers of the display (R257) -/

theorem Effect.disp_changed {s t : State} {i : Instr} (he : Effect s i t) (hne : t.disp ≠ s.disp) :
    i = .cls ∨ ∃ x y n, i = .drw x y n := by
  cases he with
  | clear => exact .inl rfl
  | draw x y n d flag => exact .inr ⟨x, y, n, rfl⟩
  | _ => exact absurd rfl hne

theorem runHostOp_disp (s : State) {op : HostOp} (hop : op ≠ .step) : (runHostOp s op).1.disp = s.disp := by
  cases op with
  | loadProgram bs =>
    obtain h | h := runHostOp_loadProgram_state_cases s bs
    · rw [h, State.setMem_disp]
    · rw [h]
  | step => exact absurd rfl hop
  | tick | setKey k b => rfl

/-- Settles O16: by the effect of the step, and by where the other operations leave the state. -/
theorem onlyClearAndDrawWriteTheDisplay : Obligations.OnlyClearAndDrawWriteTheDisplay := by
  refine ⟨fun s t h hne => ?_, fun s op hop => runHostOp_disp s hop⟩
  obtain ⟨i, hi, he⟩ | ⟨v, w, m, rfl⟩ := step_effect h
  · obtain rfl | ⟨x, y, n, rfl⟩ := he.disp_changed hne
    · exact .inl hi
    · exact .inr ⟨x, y, n, hi⟩
  · exact absurd rfl hne

/-! ## Frames of two operations in a row -/

section
variable {s t u : State}

theorem Agree.trans {p : Part} (hst : Agree s t p) (htu : Agree t u p) : Agree s u p := by
  cases p with
  | memory | regs | keypad => exact fun a => (htu a).trans (hst a)
  | display => exact fun x y => (htu x y).trans (hst x y)
  | _ => exact Eq.trans htu hst

theorem OnlyChanges.trans {ps qs : List Part} (hst : OnlyChanges ps s t) (htu : OnlyChanges qs t u) :
    OnlyChanges (ps ++ qs) s u := by
  intro p hp
  rw [List.mem_append, not_or] at hp
  exact (hst p hp.1).trans (htu p hp.2)

end

/-! ## The timers (R251, R253) -/

theorem countDown_toNat (b : Byte) : (countDown b).toNat = b.toNat - 1 :=
  byte_ofNat_toNat (by have := b.isLt; omega)

theorem State.tick_onlyChanges (s : State) : OnlyChanges [.delayTimer, .soundTimer] s s.tick :=
  (s.setDt_onlyChanges _).trans ((s.setDt _).setSt_onlyChanges _)

theorem State.soundActive_iff (s : State) : s.soundActive = true ↔ s.st.toNat ≠ 0 :=
  bne_iff_ne.trans (not_congr BitVec.toNat_inj.symm)

/-- Settles O57: a tick is one countdown of each timer. -/
theorem tickCountsBothTimersDownToZero : Obligations.TickCountsBothTimersDownToZero :=
  fun s => ⟨countDown_toNat s.dt, countDown_toNat s.st, s.tick_onlyChanges, s.soundActive_iff⟩

/-! ## The keypad (R254, R255; log 21) -/

theorem State.setKey_onlyChanges (s : State) (k : Key) (b : Bool) : OnlyChanges [.keypad] s (s.setKey k b) := by
  intro p hp
  cases p with
  | keypad => exact absurd (List.mem_singleton_self _) hp
  | memory | regs => exact fun _ => rfl
  | display => exact fun _ _ => rfl
  | _ => rfl

/-- Settles O58: a read after the write of a key, and what the key scan finds. -/
theorem setKeyWritesOneKeyAlone : Obligations.SetKeyWritesOneKeyAlone := by
  refine fun s k b => ⟨?_, fun j hj => ?_, s.setKey_onlyChanges k b, State.firstPressed_none, State.firstPressed_some⟩
  · rw [State.isPressed_setKey, if_pos rfl]
  · rw [State.isPressed_setKey, if_neg hj]

end Sys2Proof.Machine
end

section
/-! SUPPORT. Words that the spec writes out as examples (spec/30_encoding.md R82, R86). -/

namespace Sys2Proof

/-- Settles O1: each word is the encoder's word of the instruction it decodes to. -/
theorem exampleWordsDecode : Obligations.ExampleWordsDecode :=
  ⟨decode_encode .cls, decode_encode .ret, decode_encode (.jp 0xABC#12), decode_encode (.seVxNn 3 0x10#8),
    decode_encode (.addVxVy 0 1), decode_encode (.drw 1 1 5), decode_encode (.drw 1 2 5), decode_encode (.sknp 3),
    decode_encode (.ldBVx 10)⟩

end Sys2Proof
end
